-- ==== Sys2Proof/Word.lean ====
section
/-! DEFINITION. The word types of the block (00_scope.md R9, R11): `WORD_W` = 16, `BYTE_W` = 8, `TW_W` = 28,
`PH_W` = 12, and the 64-bit request operand of 30_encoding.md R46. -/

namespace Sys2Proof

/-- A 16-bit wire word (R9 `WORD_W`). -/
abbrev Word := BitVec 16

/-- One transport unit (R9 `BYTE_W`). -/
abbrev Byte := BitVec 8

/-- A 64-bit request operand or response datum (R46). -/
abbrev Data := BitVec 64

/-- A 28-bit tuning word (R9 `TW_W`). -/
abbrev Tuning := BitVec 28

/-- A 12-bit phase value (R9 `PH_W`). -/
abbrev PhaseVal := BitVec 12

end Sys2Proof
end

