-- ==== Sys2Proof/Config.lean ====
section
/-! DEFINITION. The implementation parameters of 00_scope.md R9, their constraints (R10), and the free values:
what no file of the spec fixes. A machine carries its parameters in `State.cfg` and no step writes them, so a
statement about every state is a statement about every parameter choice (assumption log 1). -/

namespace Sys2Proof

/-- The nine named one-bit fields of the command register (10_state.md R16). -/
inductive CmdField where
  | b28 | reset | sleep1 | sleep12 | mode | opbiten | div2 | fsel | psel
  deriving DecidableEq, Repr

/-- All nine fields, in the order of R16's table. -/
def CmdField.all : List CmdField :=
  [.b28, .reset, .sleep1, .sleep12, .mode, .opbiten, .div2, .fsel, .psel]

/-- Register index of a parameter bank, `i` in {0, 1} (R12). -/
inductive Bank where
  | b0 | b1
  deriving DecidableEq, Repr

/-- `OFF_WAVEFORM_POLICY` (R9, 42_mode.md R80). -/
inductive OffPolicy where
  | unchanged | draw
  deriving DecidableEq, Repr

/-- `TX_BIT_ORDER`: a parameter of a line model only (R9, 20_memory.md R37). The spec leaves it OPEN and names no values; that
it is one of these two orders is the model's DESIGN CHOICE, unsafe for a line model alone (assumption log 19). -/
inductive BitOrder where
  | msbFirst | lsbFirst
  deriving DecidableEq, Repr

/-- The parameters of R9. `TW_W`, `HALF_W`, `LO_SHIFT`, `HI_SHIFT`, `PH_W`, `WORD_W` and `BYTE_W` have one value each
and stand as numerals where they are used. A bit position is in 0..13 by its type (R10). -/
structure Config where
  /-- `F_MCLK` in hertz is `fMclkNum / fMclkDen`: the chip's master clock, a positive rational. -/
  fMclkNum : Nat
  fMclkDen : Nat
  /-- `F_CLK` in hertz is `fClkNum / fClkDen`: the block's clock. -/
  fClkNum : Nat
  fClkDen : Nat
  posB28 : Fin 14
  posReset : Fin 14
  posSleep1 : Fin 14
  posSleep12 : Fin 14
  posMode : Fin 14
  posOpbiten : Fin 14
  posDiv2 : Fin 14
  posFsel : Fin 14
  posPsel : Fin 14
  freqTag0 : Word
  freqTag1 : Word
  phaseTag0 : Word
  phaseTag1 : Word
  /-- Cycle counts of the setup, hold and initial idle waits, and of select-high between frames. -/
  nSu : Nat
  nH : Nat
  nInit : Nat
  nGap : Nat
  offPolicy : OffPolicy
  txBitOrder : BitOrder
  deriving DecidableEq, Repr

/-- The position parameter of a field (R16). -/
def Config.pos (c : Config) : CmdField → Fin 14
  | .b28 => c.posB28
  | .reset => c.posReset
  | .sleep1 => c.posSleep1
  | .sleep12 => c.posSleep12
  | .mode => c.posMode
  | .opbiten => c.posOpbiten
  | .div2 => c.posDiv2
  | .fsel => c.posFsel
  | .psel => c.posPsel

/-- `FREQ_TAG[i]` (R9). -/
def Config.freqTag (c : Config) : Bank → Word
  | .b0 => c.freqTag0
  | .b1 => c.freqTag1

/-- `PHASE_TAG[i]` (R9). -/
def Config.phaseTag (c : Config) : Bank → Word
  | .b0 => c.phaseTag0
  | .b1 => c.phaseTag1

/-- A legal frequency tag (R10): data field zero, top two bits neither `0b00` nor `0b11`. -/
abbrev Config.FreqTagOk (t : Word) : Prop :=
  t.extractLsb' 0 14 = 0 ∧ t.extractLsb' 14 2 ≠ 0b00#2 ∧ t.extractLsb' 14 2 ≠ 0b11#2

/-- A legal phase tag (R10): data field zero, top two bits `0b11`. -/
abbrev Config.PhaseTagOk (t : Word) : Prop :=
  t.extractLsb' 0 12 = 0 ∧ t.extractLsb' 14 2 = 0b11#2

/-- The constraints of R10 (and R9's 'positive rational'). `N >= ceil(5e-6 * F_CLK)` is written without the division:
a whole number is at least `ceil(5 * num / (10^6 * den))` exactly when its product with the denominator is at least
the numerator. -/
abbrev Config.Wf (c : Config) : Prop :=
  (CmdField.all.map c.pos).Nodup ∧
  Config.FreqTagOk c.freqTag0 ∧ Config.FreqTagOk c.freqTag1 ∧ c.freqTag0 ≠ c.freqTag1 ∧
  Config.PhaseTagOk c.phaseTag0 ∧ Config.PhaseTagOk c.phaseTag1 ∧ c.phaseTag0 ≠ c.phaseTag1 ∧
  0 < c.fMclkNum ∧ 0 < c.fMclkDen ∧ 0 < c.fClkNum ∧ 0 < c.fClkDen ∧
  5 * c.fClkNum ≤ c.nSu * (1000000 * c.fClkDen) ∧
  5 * c.fClkNum ≤ c.nH * (1000000 * c.fClkDen) ∧
  10 * c.fClkNum ≤ c.nInit * (1000000 * c.fClkDen) ∧
  1 ≤ c.nGap

/-! ### Free values: no body, so nothing can be proved about which value they are. -/

/-- The OPEN numbers of R9: `F_MCLK`, `F_CLK` and what the waits have above their minimum (assumption log 1). -/
opaque Config.freeNat : Nat → Nat

/-- `TX_BIT_ORDER` is OPEN (R9, R37; assumption log 1); the bit chooses between the two orders of `BitOrder` (log 19). -/
opaque Config.freeBit : Nat → Bool

/-- The free draws of `OFF_WAVEFORM_POLICY = DRAW` (42_mode.md R80), one bit per draw (assumption log 7). -/
opaque Config.draw : Nat → Bool

/-- `ceil(k * 10^-6 * num / den)` for `den > 0` (R10). -/
def Config.ceilMicro (k num den : Nat) : Nat :=
  (k * num + 1000000 * den - 1) / (1000000 * den)

/-- The parameters of the machine after reset: R9's default where it gives one (assumption log 2), a free value within
R10's constraints where R9 says OPEN (assumption log 1). -/
def Config.board : Config where
  fMclkNum := max 1 (Config.freeNat 0)
  fMclkDen := max 1 (Config.freeNat 1)
  fClkNum := max 1 (Config.freeNat 2)
  fClkDen := max 1 (Config.freeNat 3)
  posB28 := 13
  posReset := 8
  posSleep1 := 7
  posSleep12 := 6
  posMode := 1
  posOpbiten := 5
  posDiv2 := 3
  posFsel := 11
  posPsel := 10
  freqTag0 := 0x4000#16
  freqTag1 := 0x8000#16
  phaseTag0 := 0xC000#16
  phaseTag1 := 0xE000#16
  nSu := Config.ceilMicro 5 (max 1 (Config.freeNat 2)) (max 1 (Config.freeNat 3)) + Config.freeNat 4
  nH := Config.ceilMicro 5 (max 1 (Config.freeNat 2)) (max 1 (Config.freeNat 3)) + Config.freeNat 5
  nInit := Config.ceilMicro 10 (max 1 (Config.freeNat 2)) (max 1 (Config.freeNat 3)) + Config.freeNat 6
  nGap := max 1 (Config.freeNat 7)
  offPolicy := .unchanged
  txBitOrder := if Config.freeBit 0 then .msbFirst else .lsbFirst

end Sys2Proof
end

