-- ==== Sys2Proof/Syntax.lean ====
section
/-! DEFINITION. The instructions: one constructor per row of opcode_table.json. Requests (30_encoding.md R49) keep the
operands their rule reads, `D` as it stands on the port; reserved codes (R51) have constructors of their own; the wire
words (R53 to R57) are what the block's own sequencer executes by `Emit` (40_frame_controller.md R62). -/

namespace Sys2Proof

/-- The instruction of a request, or one wire word. -/
inductive Instr where
  /-- `op = 0x1`; `idx` and `D` ignored (R72). -/
  | init
  /-- `op = 0x2`; `on = (D != 0)` (R76). -/
  | power (d : Data)
  /-- `op = 0x3`; `m = D[7:0]` (R78). -/
  | setMode (d : Data)
  /-- `op = 0x4`; register `idx`, `D` a binary64 pattern (R87). -/
  | setFreq (i : BitVec 2) (d : Data)
  /-- `op = 0x5`; register `idx`, `p = D[11:0]` (R92). -/
  | setPhase (i : BitVec 2) (d : Data)
  /-- `op = 0x6`; select `idx` (R94). -/
  | setFreqOut (i : BitVec 2)
  /-- `op = 0x7`; select `idx` (R95). -/
  | setPhaseOut (i : BitVec 2)
  /-- `op = 0x8`; register `idx` (R97). -/
  | getFreq (i : BitVec 2)
  /-- `op = 0x9`; register `idx` (R98). -/
  | getPhase (i : BitVec 2)
  /-- `op = 0xA` (R99). -/
  | getFreqOut
  /-- `op = 0xB` (R100). -/
  | getPhaseOut
  /-- `op = 0xC` (R101). -/
  | getMode
  /-- Reserved code `op = 0x0` (R51, R104). -/
  | reserved0
  /-- Reserved code `op = 0xD`. -/
  | reservedD
  /-- Reserved code `op = 0xE`. -/
  | reservedE
  /-- Reserved code `op = 0xF`. -/
  | reservedF
  /-- A command word, whole (R54). -/
  | cmd (w : Word)
  /-- INIT's standalone reset word (R57). -/
  | resetw
  /-- First frequency transfer to FREQ0: `w[13:0]` (R55). -/
  | freqLo0 (l : BitVec 14)
  /-- Second frequency transfer to FREQ0: `w[11:0]`, `w[13:12] = 0` (R55). -/
  | freqHi0 (h : BitVec 12)
  /-- First frequency transfer to FREQ1. -/
  | freqLo1 (l : BitVec 14)
  /-- Second frequency transfer to FREQ1. -/
  | freqHi1 (h : BitVec 12)
  /-- Phase word to PHASE0: `w[11:0]` (R56). -/
  | phase0 (p : PhaseVal)
  /-- Phase word to PHASE1. -/
  | phase1 (p : PhaseVal)
  deriving DecidableEq, Repr

/-- One host request as it stands on the request port: `req_op`, `req_idx`, `req_data` (R46). -/
structure Request where
  op : BitVec 4
  idx : BitVec 2
  data : Data
  deriving DecidableEq, Repr

/-- Where in its request a frame stands. FREQ_LO and FREQ_HI words with the same bits are told apart only by this
(opcode_table.json, row FREQ_LO_0: 'told apart from FREQ_HI_0 only by its position'). -/
inductive Slot where
  /-- position not known, or a word that needs none -/
  | any
  /-- second frame of SET_FREQ -/
  | freqLow
  /-- third frame of SET_FREQ -/
  | freqHigh
  deriving DecidableEq, Repr

end Sys2Proof
end

