-- ==== Sys2Proof/WellFormed.lean ====
section
/-! DEFINITION. Well-formed instructions. Every operand value of a request is legal syntax (an index above 1 or a
non-finite frequency is rejected when the request is served, R104); a command word must carry 0 in the RESET field and
in every position no parameter names (30_encoding.md R54, 10_state.md R17, R20). -/

namespace Sys2Proof

/-- The bits of a command word that a field other than RESET names (R16). -/
def Config.cmdMask (c : Config) : Word :=
  CmdField.all.foldl (fun m f => if f = .reset then m else m ||| (1#16 <<< (c.pos f).val)) 0#16

/-- No bit outside the nine fields is set (R17). -/
def Config.reservedClear (c : Config) (w : Word) : Bool :=
  (w &&& ~~~(c.cmdMask ||| (1#16 <<< c.posReset.val))) == 0#16

/-- The RESET field is 0 (R20, R54). -/
def Config.resetClear (c : Config) (w : Word) : Bool :=
  !(w.getLsbD c.posReset.val)

/-- The instruction is one the formats admit, under the parameters `c`. -/
def Instr.wellFormed (c : Config) : Instr → Bool
  | .cmd w => c.reservedClear w && c.resetClear w
  | .init => true
  | .power _ => true
  | .setMode _ => true
  | .setFreq _ _ => true
  | .setPhase _ _ => true
  | .setFreqOut _ => true
  | .setPhaseOut _ => true
  | .getFreq _ => true
  | .getPhase _ => true
  | .getFreqOut => true
  | .getPhaseOut => true
  | .getMode => true
  | .reserved0 => true
  | .reservedD => true
  | .reservedE => true
  | .reservedF => true
  | .resetw => true
  | .freqLo0 _ => true
  | .freqHi0 _ => true
  | .freqLo1 _ => true
  | .freqHi1 _ => true
  | .phase0 _ => true
  | .phase1 _ => true

end Sys2Proof
end

