-- ==== Sys2Proof/Decode.lean ====
section
/-! DEFINITION. The encodings of 30_encoding.md: the request header (R48), the operation codes (R49), the wire words
(R53 to R57), the address map of 20_memory.md R33, and the decoder and encoder written from them. -/

namespace Sys2Proof

/-! ### The request port -/

/-- `H = {req_op[3:0], 0b00, req_idx[1:0]}` (R48). -/
def Request.header (r : Request) : Byte :=
  r.op ++ (0b00#2 ++ r.idx)

/-- The request with header `h` and operand `d`; `H[3:2]` is ignored (R48). -/
def requestOf (h : Byte) (d : Data) : Request where
  op := h.extractLsb' 4 4
  idx := h.extractLsb' 0 2
  data := d

/-- The operation code table (R49). Every code has a constructor, so decoding a request never fails: a reserved code
decodes to its own instruction, which is served with ILLEGAL_OP (R51). -/
def decodeRequest (r : Request) : Instr :=
  match r.op.toNat with
  | 0x1 => .init
  | 0x2 => .power r.data
  | 0x3 => .setMode r.data
  | 0x4 => .setFreq r.idx r.data
  | 0x5 => .setPhase r.idx r.data
  | 0x6 => .setFreqOut r.idx
  | 0x7 => .setPhaseOut r.idx
  | 0x8 => .getFreq r.idx
  | 0x9 => .getPhase r.idx
  | 0xA => .getFreqOut
  | 0xB => .getPhaseOut
  | 0xC => .getMode
  | 0xD => .reservedD
  | 0xE => .reservedE
  | 0xF => .reservedF
  | _ => .reserved0

/-! ### Wire words -/

/-- `FREQ_TAG[i] | x` for a 14-bit field `x` (R55). -/
def freqWord (c : Config) (i : Bank) (x : BitVec 14) : Word :=
  c.freqTag i ||| x.zeroExtend 16

/-- `FREQ_HI`: the 12 bits `TW[27:16]` with `w[13:12] = 0b00` (R55). -/
def freqHighWord (c : Config) (i : Bank) (x : BitVec 12) : Word :=
  freqWord c i (x.zeroExtend 14)

/-- `PHASE_TAG[i] | p` (R56). -/
def phaseWord (c : Config) (i : Bank) (p : PhaseVal) : Word :=
  c.phaseTag i ||| p.zeroExtend 16

/-- `RESETW = (1 << POS_RESET) | (1 << POS_SLEEP12)` (R57). -/
def resetWord (c : Config) : Word :=
  (1#16 <<< c.posReset.val) ||| (1#16 <<< c.posSleep12.val)

/-- The five targets of the chip's register file (R32). -/
inductive Target where
  | command | freq (i : Bank) | phase (i : Bank)
  deriving DecidableEq, Repr

/-- The address map (R33): a frequency register by its two tag bits, a phase register by its four, the command register
by a word not tagged so, whose top bits are `0b00`. A word with the top bits of no target has none. DEDUCED, safe: log 6. -/
def wireTarget (c : Config) (w : Word) : Option Target :=
  if w.extractLsb' 14 2 = c.freqTag0.extractLsb' 14 2 then some (.freq .b0)
  else if w.extractLsb' 14 2 = c.freqTag1.extractLsb' 14 2 then some (.freq .b1)
  else if w.extractLsb' 12 4 = c.phaseTag0.extractLsb' 12 4 then some (.phase .b0)
  else if w.extractLsb' 12 4 = c.phaseTag1.extractLsb' 12 4 then some (.phase .b1)
  else if w.extractLsb' 14 2 = 0b00#2 then some .command
  else none

/-- Why a wire word is no instruction. -/
inductive DecodeError where
  /-- the tag bits select no target (R33) -/
  | noTarget (w : Word)
  /-- the third frame of SET_FREQ with `w[13:12] ≠ 0b00` (R55) -/
  | highWordBits (w : Word)
  deriving DecidableEq, Repr

/-- FREQ_LO of register `i`. -/
def freqLowInstr (i : Bank) (x : BitVec 14) : Instr :=
  match i with
  | .b0 => .freqLo0 x
  | .b1 => .freqLo1 x

/-- FREQ_HI of register `i`. -/
def freqHighInstr (i : Bank) (x : BitVec 12) : Instr :=
  match i with
  | .b0 => .freqHi0 x
  | .b1 => .freqHi1 x

/-- A frequency word by its position (R55). Without a position the narrower row of opcode_table.json wins: FREQ_HI when
`w[13:12] = 0b00`, else FREQ_LO. DEDUCED, safe: log 6. -/
def decodeFreqWord (slot : Slot) (i : Bank) (w : Word) : Except DecodeError Instr :=
  match slot with
  | .freqLow => .ok (freqLowInstr i (w.extractLsb' 0 14))
  | .freqHigh =>
    if w.extractLsb' 12 2 = 0b00#2 then .ok (freqHighInstr i (w.extractLsb' 0 12)) else .error (.highWordBits w)
  | .any =>
    if w.extractLsb' 12 2 = 0b00#2 then .ok (freqHighInstr i (w.extractLsb' 0 12))
    else .ok (freqLowInstr i (w.extractLsb' 0 14))

/-- Decode one wire word by its tag bits (R58) and its position. -/
def decodeWire (c : Config) (slot : Slot) (w : Word) : Except DecodeError Instr :=
  match wireTarget c w with
  | some (.freq i) => decodeFreqWord slot i w
  | some (.phase .b0) => .ok (.phase0 (w.extractLsb' 0 12))
  | some (.phase .b1) => .ok (.phase1 (w.extractLsb' 0 12))
  | some .command => if w = resetWord c then .ok .resetw else .ok (.cmd w)
  | none => .error (.noTarget w)

/-! ### One code for both interfaces -/

/-- What stands on an interface: a header with its operand on the request port, or a 16-bit word on the wire. -/
inductive Code where
  | request (h : Byte) (d : Data)
  | wire (slot : Slot) (w : Word)
  deriving DecidableEq, Repr

/-- Total: every code gives an instruction or a named rejection. -/
def decode (c : Config) : Code → Except DecodeError Instr
  | .request h d => .ok (decodeRequest (requestOf h d))
  | .wire slot w => decodeWire c slot w

/-- The bytes of a wire word, most significant first (20_memory.md R36). -/
def wireBytes (w : Word) : List Byte :=
  [w.extractLsb' 8 8, w.extractLsb' 0 8]

/-- The 16-bit word of two transferred bytes (R36). -/
def wireOfBytes (hi lo : Byte) : Word :=
  hi ++ lo

/-- The encoder, from the same tables (R49, R53 to R57). An operand the operation ignores is encoded as 0. -/
def encode (c : Config) : Instr → Code
  | .init => .request 0x10#8 0#64
  | .power d => .request 0x20#8 d
  | .setMode d => .request 0x30#8 d
  | .setFreq i d => .request (0x4#4 ++ (0b00#2 ++ i)) d
  | .setPhase i d => .request (0x5#4 ++ (0b00#2 ++ i)) d
  | .setFreqOut i => .request (0x6#4 ++ (0b00#2 ++ i)) 0#64
  | .setPhaseOut i => .request (0x7#4 ++ (0b00#2 ++ i)) 0#64
  | .getFreq i => .request (0x8#4 ++ (0b00#2 ++ i)) 0#64
  | .getPhase i => .request (0x9#4 ++ (0b00#2 ++ i)) 0#64
  | .getFreqOut => .request 0xA0#8 0#64
  | .getPhaseOut => .request 0xB0#8 0#64
  | .getMode => .request 0xC0#8 0#64
  | .reserved0 => .request 0x00#8 0#64
  | .reservedD => .request 0xD0#8 0#64
  | .reservedE => .request 0xE0#8 0#64
  | .reservedF => .request 0xF0#8 0#64
  | .cmd w => .wire .any w
  | .resetw => .wire .any (resetWord c)
  | .freqLo0 l => .wire .freqLow (freqWord c .b0 l)
  | .freqHi0 h => .wire .freqHigh (freqHighWord c .b0 h)
  | .freqLo1 l => .wire .freqLow (freqWord c .b1 l)
  | .freqHi1 h => .wire .freqHigh (freqHighWord c .b1 h)
  | .phase0 p => .wire .any (phaseWord c .b0 p)
  | .phase1 p => .wire .any (phaseWord c .b1 p)

/-! ### opcode_table.json's numbering -/

/-- The code whose bits are `w` as opcode_table.json numbers them: 8 bits (or 72, header then operand) are a request,
whose operand bits above `nbits` are 0; 16 bits are a wire word whose position is not known. -/
def codeOfTableWord (nbits w : Nat) : Option Code :=
  if nbits = 8 then some (.request (BitVec.ofNat 8 w) 0#64)
  else if nbits = 72 then some (.request (BitVec.ofNat 8 w) (BitVec.ofNat 64 (w / 256)))
  else if nbits = 16 then some (.wire .any (BitVec.ofNat 16 w))
  else none

end Sys2Proof

/-- The instruction the decoder reads from an opcode-table word, under the reset machine's parameters. -/
def Sys2Proof.decodeTableWord (nbits w : Nat) : Option Sys2Proof.Instr :=
  match Sys2Proof.codeOfTableWord nbits w with
  | some code => (Sys2Proof.decode Sys2Proof.Config.board code).toOption
  | none => none
end

