-- ==== Sys2Proof/Machine/State.lean ====
section
/-! DEFINITION. The block's state (10_state.md R15), the sequencer (R26, 40_frame_controller.md R63), the ports
(30_encoding.md R46), the output trace (00_scope.md R8, R12) and the environment's inputs, all plain data; and the
state after reset (R30). -/

namespace Sys2Proof.Machine

/-- Why a step would stop the machine. No rule of the spec stops it: a rejected request is a next state (60_exceptions.md
R106), a frame cannot fail (R62), a silent transport leaves the block busy (R126). So there is no constructor, and no
step faults. -/
inductive Fault where
  deriving DecidableEq, Repr

/-- Why an instruction has no meaning. -/
inductive Refusal where
  /-- An arm of `exec` whose instruction has no meaning yet raises it; safe. No arm does. -/
  | notModelled (mnemonic : String)
  deriving DecidableEq, Repr

/-- The statuses of `resp_status` (R52, R103). -/
inductive Status where
  | ok | illegalOp | notInit | badIndex | badValue
  deriving DecidableEq, Repr

/-- An event of the output trace (R8). -/
inductive Event where
  | selEnable
  | frame (w : Word)
  deriving DecidableEq, Repr

/-- One line of a request's pseudocode. The lines of a request are fixed when it is accepted (R26, R131): an event it
performs (`SelEnable`, `Wait`, `Emit`), a state write between events, or the response that ends it. -/
inductive Micro where
  /-- `st.cmd <- 0x0000` (R72) -/
  | clearCmd
  /-- `st.cmd <- SetBit(st.cmd, POS_f, b)` (R12) -/
  | setBit (f : CmdField) (b : Bool)
  /-- `st.cmd <- SetBit(st.cmd, POS_f, b)` inside the hold of the frame just emitted (INIT's mirror update after the reset
  word, R72 as 90_conflicts.md C4 rules) -/
  | holdSetBit (f : CmdField) (b : Bool)
  /-- `st.freq[i] <- f` (R87) -/
  | setFreq (i : Bank) (f : Data)
  /-- `st.phase[i] <- p` (R92) -/
  | setPhase (i : Bank) (p : PhaseVal)
  /-- `st.fsel <- b` (R94) -/
  | setFsel (b : Bool)
  /-- `st.psel <- b` (R95) -/
  | setPsel (b : Bool)
  /-- `st.mode <- m` (R78) -/
  | setMode (m : BitVec 8)
  /-- `st.init <- 1` (R72) -/
  | setInit
  /-- the model's own: `n` free bits have been drawn (R80) -/
  | countDraws (n : Nat)
  /-- `SelEnable()` (R69) -/
  | selEnable
  /-- `Wait(N_INIT)` (R70) -/
  | waitInit
  /-- `Emit(st.cmd)` (R18) -/
  | emitCmd
  /-- `Emit(w)`, with the frame's position in its request (R62) -/
  | emit (slot : Slot) (w : Word)
  /-- `Respond(s, d)` (R12) -/
  | respond (st : Status) (d : Data)
  deriving DecidableEq, Repr

/-- What the sequencer is doing in the present cycle: the sub-states of a frame (R63), the one cycle of `SelEnable`
(R69), a wait (R70), or the cycle in which `resp_valid = 1` (R46). -/
inductive Phase where
  | selEnable
  | wait (n : Nat)
  | setup (w : Word) (n : Nat)
  /-- `first` is true in the sub-state's first cycle, when `tx_start = 1` -/
  | hi (w : Word) (first : Bool)
  | lo (w : Word) (first : Bool)
  | hold (w : Word) (n : Nat)
  | gap (n : Nat)
  | responding
  deriving DecidableEq, Repr

/-- `st.seq` (R26): IDLE, or BUSY with the event in progress, if one has begun, and the lines still to perform. -/
inductive Seq where
  | idle
  | busy (cur : Option Phase) (q : List Micro)
  deriving DecidableEq, Repr

/-- `resp_status` and `resp_data` of a cycle in which `resp_valid = 1` (R46, R52). -/
structure Response where
  status : Status
  data : Data
  deriving DecidableEq, Repr

/-- The input levels the block samples at one rising edge of `clk` (R46, R60, R117). -/
structure Pins where
  rst : Bool
  reqValid : Bool
  req : Request
  txDone : Bool
  deriving DecidableEq, Repr

/-- What the environment does next (R114): the host presents a request that is served as one atomic step (R8), or one
clock edge passes with the given input levels (R63). DESIGN CHOICE, safe: log 3. -/
inductive Input where
  | request (r : Request)
  | clock (p : Pins)
  deriving DecidableEq, Repr

/-- The machine. The first twelve fields are R15's `st`; `resp` is the response port, `none` when `resp_valid = 0`
(log 9); `cfg` holds the parameters of R9, which nothing writes (log 1); `trace`, `inputs` and `draws` are the model's
own. -/
structure State where
  cmd : Word
  freq0 : Data
  freq1 : Data
  phase0 : PhaseVal
  phase1 : PhaseVal
  fsel : Bool
  psel : Bool
  mode : BitVec 8
  init : Bool
  selOe : Bool
  selN : Bool
  seq : Seq
  resp : Option Response
  cfg : Config
  trace : List Event
  inputs : List Input
  draws : Nat
  deriving DecidableEq, Repr

/-- The state after block reset (R30), with the parameters `Config.board` (log 1, log 2), nothing emitted and no input
listed (log 4, log 8). -/
def State.reset : State where
  cmd := 0x0000#16
  freq0 := 0#64
  freq1 := 0#64
  phase0 := 0#12
  phase1 := 0#12
  fsel := false
  psel := false
  mode := 0#8
  init := false
  selOe := false
  selN := true
  seq := .idle
  resp := none
  cfg := Config.board
  trace := []
  inputs := []
  draws := 0

/-- `st.freq[i]` (R12). -/
def State.freq (s : State) : Bank → Data
  | .b0 => s.freq0
  | .b1 => s.freq1

/-- `st.phase[i]` (R12). -/
def State.phase (s : State) : Bank → PhaseVal
  | .b0 => s.phase0
  | .b1 => s.phase1

end Sys2Proof.Machine
end

