-- ==== Sys2Proof/Machine/Scaler.lean ====
section
/-! DEFINITION. The frequency-word scaler and the serial splitter (43_frequency.md R83 to R86, 00_scope.md R13). The
clear reading over the rationals (`value`, `roundHalfAway`, `scaleSpec`) stands beside the integer form the machine
evaluates (`scale`); that the two agree is a statement of Certificates/Slice0. -/

namespace Sys2Proof.Machine

/-! ### Binary64 patterns (R13) -/

/-- The exponent field `f[62:52]`. -/
def expField (f : Data) : Nat :=
  (f.extractLsb' 52 11).toNat

/-- The fraction field `f[51:0]`. -/
def fracField (f : Data) : Nat :=
  (f.extractLsb' 0 52).toNat

/-- `isFinite(f)`: true unless the exponent field is all ones. -/
def isFinite (f : Data) : Bool :=
  f.extractLsb' 52 11 != 0x7FF#11

/-- `value(f)` of a finite pattern: `(-1)^s * 1.frac * 2^(exp - 1023)`, or `(-1)^s * 0.frac * 2^(-1022)` when the exponent
field is 0. -/
def value (f : Data) : ℚ :=
  (if f.getLsbD 63 then -1 else 1) *
    (if expField f = 0 then (fracField f : ℚ) / 2 ^ 52 * (2 : ℚ) ^ (-1022 : ℤ)
     else (1 + (fracField f : ℚ) / 2 ^ 52) * (2 : ℚ) ^ ((expField f : ℤ) - 1023))

/-- `RoundHalfAway(x) = sign(x) * floor(|x| + 1/2)` (R13). -/
def roundHalfAway (x : ℚ) : ℤ :=
  (if x < 0 then -1 else if x = 0 then 0 else 1) * ⌊|x| + 1 / 2⌋

/-- `F_MCLK` as a rational. -/
def fMclk (c : Config) : ℚ :=
  (c.fMclkNum : ℚ) / c.fMclkDen

/-- R83 as it is written: the exact product, rounded, reduced modulo `2^28`. -/
def scaleSpec (c : Config) (f : Data) : Tuning :=
  BitVec.ofInt 28 (roundHalfAway (value f * 2 ^ 28 / fMclk c))

/-! ### The integer form -/

/-- The significand: `|value f| = significand f * 2^(scaleExp f - 1075)`. -/
def significand (f : Data) : Nat :=
  if expField f = 0 then fracField f else 2 ^ 52 + fracField f

/-- The biased exponent, with the subnormals' exponent 1. -/
def scaleExp (f : Data) : Nat :=
  if expField f = 0 then 1 else expField f

/-- `floor(n / d + 1/2)` for `d > 0`. -/
def roundHalfUp (n d : Nat) : Nat :=
  (2 * n + d) / (2 * d)

/-- `floor(|x| + 1/2)` for R83's `x`. Of the two truncated differences at most one is not 0: together they are the power
`2^(scaleExp f - 1075)` on the side of the fraction where it is whole. -/
def scaleMag (c : Config) (f : Data) : Nat :=
  roundHalfUp (significand f * 2 ^ (scaleExp f - 1075) * 2 ^ 28 * c.fMclkDen) (2 ^ (1075 - scaleExp f) * c.fMclkNum)

/-- `Scale(f)` (R83): the 28-bit tuning word, by the floor modulus. -/
def scale (c : Config) (f : Data) : Tuning :=
  BitVec.ofInt 28 (if f.getLsbD 63 then -(scaleMag c f : Int) else (scaleMag c f : Int))

/-! ### The splitter -/

/-- `Split(i, TW)` (R86), the formulas word for word: `t` is the tuning word zero-extended to 32 bits. -/
def split (c : Config) (i : Bank) (tw : Tuning) : Word × Word :=
  (c.freqTag i ||| (((tw.zeroExtend 32) >>> 2) &&& 0x3FFF#32).setWidth 16,
   c.freqTag i ||| (((tw.zeroExtend 32) >>> 16) &&& 0x3FFF#32).setWidth 16)

end Sys2Proof.Machine
end

