-- ==== Sys2Proof/Machine/Operands.lean ====
section
/-! DEFINITION. Operand decoding by operation (30_encoding.md R50) and the response values of R52. None of the operands is
sign-extended. -/

namespace Sys2Proof.Machine

/-- POWER: `on = (D != 0)`. -/
def powerOn (d : Data) : Bool :=
  d != 0#64

/-- SET_MODE: `m = D[7:0]`. -/
def modeCode (d : Data) : BitVec 8 :=
  d.extractLsb' 0 8

/-- SET_PHASE: `p = D[11:0]`. -/
def phaseOperand (d : Data) : PhaseVal :=
  d.extractLsb' 0 12

/-- The register an index names once R104 has let it through: `idx` is 0 or 1. -/
def bankOf (i : BitVec 2) : Bank :=
  if i = 0#2 then .b0 else .b1

/-- The select bit an index names once R104 has let it through. -/
def selectOf (i : BitVec 2) : Bool :=
  i != 0#2

/-- `zext_64` of a one-bit field. -/
def zextBit (b : Bool) : Data :=
  if b then 1#64 else 0#64

/-- `resp_status` codes (R52). -/
def statusCode : Status → BitVec 3
  | .ok => 0#3
  | .illegalOp => 1#3
  | .notInit => 2#3
  | .badIndex => 3#3
  | .badValue => 4#3

/-- Mode codes (10_state.md R25). -/
def modeOff : BitVec 8 := 0#8
def modeTriangle : BitVec 8 := 1#8
def modeSquare : BitVec 8 := 2#8
def modeSine : BitVec 8 := 3#8

end Sys2Proof.Machine
end

