-- ==== Sys2Proof/Machine/Flags.lean ====
section
/-! DEFINITION. The block's status flags (10_state.md R27: `st.init` and busy), the outputs computed from the state
(30_encoding.md R46, 40_frame_controller.md R60, R61, R63), and the acceptance check (60_exceptions.md R104). -/

namespace Sys2Proof.Machine

/-- The busy condition `st.seq != IDLE` (R27). -/
def State.busy (s : State) : Bool :=
  s.seq != .idle

/-- `req_ready`: 1 exactly when `st.seq = IDLE` and reset is not asserted (R46). -/
def State.reqReady (s : State) (rst : Bool) : Bool :=
  !s.busy && !rst

/-- `resp_valid` (R46). -/
def State.respValid (s : State) : Bool :=
  s.resp.isSome

/-- `tx_start`: 1 in the first cycle of F_HI and of F_LO (R63). -/
def State.txStart (s : State) : Bool :=
  match s.seq with
  | .busy (some (.hi _ first)) _ => first
  | .busy (some (.lo _ first)) _ => first
  | _ => false

/-- `tx_byte`: `w[15:8]` in F_HI, `w[7:0]` in F_LO, held until `tx_done`; elsewhere R63's 'don't care', which has no value
here (log 12). -/
def State.txByte (s : State) : Option Byte :=
  match s.seq with
  | .busy (some (.hi w _)) _ => some (w.extractLsb' 8 8)
  | .busy (some (.lo w _)) _ => some (w.extractLsb' 0 8)
  | _ => none

/-- The level on the select pad: driven only while `st.sel_oe = 1` (R28, R61); `none` is high impedance. -/
def State.selPad (s : State) : Option Bool :=
  if s.selOe then some s.selN else none

/-- A frame's select-low sub-state: F_SETUP, F_HI, F_LO or F_HOLD (R67). -/
def Phase.selectLow : Phase → Bool
  | .setup _ _ => true
  | .hi _ _ => true
  | .lo _ _ => true
  | .hold _ _ => true
  | .gap _ => false
  | .selEnable => false
  | .wait _ => false
  | .responding => false

/-- The operations whose index is checked (R104). -/
def indexed (op : BitVec 4) : Bool :=
  op == 0x4#4 || op == 0x5#4 || op == 0x6#4 || op == 0x7#4 || op == 0x8#4 || op == 0x9#4

/-- `Check(op, idx, D)` (R104): the first cause that applies, in R104's order; `none` when the request passes. -/
def checkRequest (op : BitVec 4) (idx : BitVec 2) (d : Data) (s : State) : Option Status :=
  if op = 0x0#4 ∨ 0xD#4 ≤ op then some .illegalOp
  else if op ≠ 0x1#4 ∧ s.init = false then some .notInit
  else if indexed op = true ∧ 1#2 < idx then some .badIndex
  else if op = 0x4#4 ∧ isFinite d = false then some .badValue
  else none

end Sys2Proof.Machine
end

