-- ==== Sys2Proof/Machine/Ops.lean ====
section
/-! DEFINITION. The named operations over the state: `SetBit`, `Emit`, `SelEnable`, `Respond` (00_scope.md R12), one line
of pseudocode applied to the state, a request's lines applied in order, and the one way a request is turned away
(60_exceptions.md R106). The block has no traps (R109): a rejection is all there is of an exception, and it needs no
return. -/

namespace Sys2Proof.Machine

/-- `SetBit(w, p, b)`: `w` with bit `p` replaced by `b` (R12). -/
def setBit (w : Word) (p : Nat) (b : Bool) : Word :=
  if b then w ||| (1#16 <<< p) else w &&& ~~~(1#16 <<< p)

/-- The value of a command-register field in the mirror (R16). -/
def State.field (s : State) (f : CmdField) : Bool :=
  s.cmd.getLsbD (s.cfg.pos f).val

/-- `Emit(w)` at transaction level (40_frame_controller.md R62): the event is appended, and `st.sel_n`, which the frame
lowers and raises, ends at 1. The word is never inspected. Outside R62's precondition (`st.sel_oe = 1`) the controller
acts the same way. DESIGN CHOICE, unsafe for an undriven pin only: log 5. -/
def emitFrame (w : Word) (s : State) : State :=
  { s with selN := true, trace := s.trace ++ [.frame w] }

/-- `SelEnable()` (R69): the pin becomes an output at level 1; if it already is one, only the event is appended. -/
def selEnable (s : State) : State :=
  { s with selOe := true, selN := if s.selOe then s.selN else true, trace := s.trace ++ [.selEnable] }

/-- `st.freq[i] <- f` (R21). -/
def writeFreq (i : Bank) (f : Data) (s : State) : State :=
  match i with
  | .b0 => { s with freq0 := f }
  | .b1 => { s with freq1 := f }

/-- `st.phase[i] <- p` (R22). -/
def writePhase (i : Bank) (p : PhaseVal) (s : State) : State :=
  match i with
  | .b0 => { s with phase0 := p }
  | .b1 => { s with phase1 := p }

/-- One line of pseudocode at transaction level. `Wait` is no event there (R12). -/
def applyMicro (op : Micro) (s : State) : State :=
  match op with
  | .clearCmd => { s with cmd := 0x0000#16 }
  | .setBit f b => { s with cmd := setBit s.cmd (s.cfg.pos f).val b }
  | .holdSetBit f b => { s with cmd := setBit s.cmd (s.cfg.pos f).val b }
  | .setFreq i f => writeFreq i f s
  | .setPhase i p => writePhase i p s
  | .setFsel b => { s with fsel := b }
  | .setPsel b => { s with psel := b }
  | .setMode m => { s with mode := m }
  | .setInit => { s with init := true }
  | .countDraws n => { s with draws := s.draws + n }
  | .selEnable => selEnable s
  | .waitInit => s
  | .emitCmd => emitFrame s.cmd s
  | .emit _ w => emitFrame w s
  | .respond st d => { s with resp := some { status := st, data := d } }

/-- The lines of a request, in order: one atomic step (00_scope.md R8). -/
def perform : List Micro → State → State
  | [], s => s
  | op :: q, s => perform q (applyMicro op s)

/-- `raise Reject(st)` (R106): no field written, no event, response data 0. -/
def reject (st : Status) : List Micro :=
  [.respond st 0#64]

/-- Every accepted request first runs `Check`; only if it passes does the operation's rule run (R104). -/
def serve (op : BitVec 4) (idx : BitVec 2) (d : Data) (body : List Micro) (s : State) : List Micro :=
  match checkRequest op idx d s with
  | some st => reject st
  | none => body

end Sys2Proof.Machine
end

