-- ==== Sys2Proof/Machine/Accessors.lean ====
section
/-! DEFINITION. The accessors (46_accessors.md R97 to R102): pure reads of cached state, answered on the response port. -/

namespace Sys2Proof.Machine

/-- The lines of GET_FREQ (R97). -/
def planGetFreq (i : BitVec 2) (s : State) : List Micro :=
  serve 0x8#4 i 0#64 [.respond .ok (s.freq (bankOf i))] s

/-- GET_FREQ (R97). -/
def execGetFreq (i : BitVec 2) (s : State) : Host.Outcome State Fault Refusal :=
  .next (perform (planGetFreq i s) s)

/-- The lines of GET_PHASE (R98). -/
def planGetPhase (i : BitVec 2) (s : State) : List Micro :=
  serve 0x9#4 i 0#64 [.respond .ok ((s.phase (bankOf i)).zeroExtend 64)] s

/-- GET_PHASE (R98). -/
def execGetPhase (i : BitVec 2) (s : State) : Host.Outcome State Fault Refusal :=
  .next (perform (planGetPhase i s) s)

/-- The lines of GET_FREQ_OUT (R99). -/
def planGetFreqOut (s : State) : List Micro :=
  serve 0xA#4 0#2 0#64 [.respond .ok (zextBit s.fsel)] s

/-- GET_FREQ_OUT (R99). -/
def execGetFreqOut (s : State) : Host.Outcome State Fault Refusal :=
  .next (perform (planGetFreqOut s) s)

/-- The lines of GET_PHASE_OUT (R100). -/
def planGetPhaseOut (s : State) : List Micro :=
  serve 0xB#4 0#2 0#64 [.respond .ok (zextBit s.psel)] s

/-- GET_PHASE_OUT (R100). -/
def execGetPhaseOut (s : State) : Host.Outcome State Fault Refusal :=
  .next (perform (planGetPhaseOut s) s)

/-- The lines of GET_MODE (R101). -/
def planGetMode (s : State) : List Micro :=
  serve 0xC#4 0#2 0#64 [.respond .ok (s.mode.zeroExtend 64)] s

/-- GET_MODE (R101). -/
def execGetMode (s : State) : Host.Outcome State Fault Refusal :=
  .next (perform (planGetMode s) s)

end Sys2Proof.Machine
end

