-- ==== Sys2Proof/Machine/Frequency.lean ====
section
/-! DEFINITION. SET_FREQ (43_frequency.md R87 to R91). -/

namespace Sys2Proof.Machine

/-- `SetFreqBody(i, f)` (R87): the pattern cached verbatim, B28 forced set, then command word, low and high transfer. The
tuning word is computed when the request is accepted (10_state.md R21). -/
def setFreqBody (c : Config) (i : Bank) (f : Data) : List Micro :=
  [.setFreq i f, .setBit .b28 true, .emitCmd,
   .emit .freqLow (split c i (scale c f)).1, .emit .freqHigh (split c i (scale c f)).2]

/-- The lines of SET_FREQ (R87). -/
def planSetFreq (i : BitVec 2) (d : Data) (s : State) : List Micro :=
  serve 0x4#4 i d (setFreqBody s.cfg (bankOf i) d ++ [.respond .ok 0#64]) s

/-- SET_FREQ (R87). -/
def execSetFreq (i : BitVec 2) (d : Data) (s : State) : Host.Outcome State Fault Refusal :=
  .next (perform (planSetFreq i d s) s)

end Sys2Proof.Machine
end

