-- ==== Sys2Proof/Machine/OutputSelect.lean ====
section
/-! DEFINITION. SET_FREQ_OUT and SET_PHASE_OUT (45_output_select.md R94 to R96). -/

namespace Sys2Proof.Machine

/-- `SetFreqOutBody(i)` (R94). -/
def setFreqOutBody (b : Bool) : List Micro :=
  [.setBit .fsel b, .setFsel b, .emitCmd]

/-- `SetPhaseOutBody(i)` (R95). -/
def setPhaseOutBody (b : Bool) : List Micro :=
  [.setBit .psel b, .setPsel b, .emitCmd]

/-- The lines of SET_FREQ_OUT (R94). -/
def planSetFreqOut (i : BitVec 2) (s : State) : List Micro :=
  serve 0x6#4 i 0#64 (setFreqOutBody (selectOf i) ++ [.respond .ok 0#64]) s

/-- SET_FREQ_OUT (R94). -/
def execSetFreqOut (i : BitVec 2) (s : State) : Host.Outcome State Fault Refusal :=
  .next (perform (planSetFreqOut i s) s)

/-- The lines of SET_PHASE_OUT (R95). -/
def planSetPhaseOut (i : BitVec 2) (s : State) : List Micro :=
  serve 0x7#4 i 0#64 (setPhaseOutBody (selectOf i) ++ [.respond .ok 0#64]) s

/-- SET_PHASE_OUT (R95). -/
def execSetPhaseOut (i : BitVec 2) (s : State) : Host.Outcome State Fault Refusal :=
  .next (perform (planSetPhaseOut i s) s)

end Sys2Proof.Machine
end

