-- ==== Sys2Proof/Machine/PhaseSet.lean ====
section
/-! DEFINITION. SET_PHASE (44_phase.md R92, R93). -/

namespace Sys2Proof.Machine

/-- `SetPhaseBody(i, p)` (R92): the 12 bits cached, one tagged word emitted; the mirror is neither read nor written. -/
def setPhaseBody (c : Config) (i : Bank) (p : PhaseVal) : List Micro :=
  [.setPhase i p, .emit .any (phaseWord c i p)]

/-- The lines of SET_PHASE (R92). -/
def planSetPhase (i : BitVec 2) (d : Data) (s : State) : List Micro :=
  serve 0x5#4 i d (setPhaseBody s.cfg (bankOf i) (phaseOperand d) ++ [.respond .ok 0#64]) s

/-- SET_PHASE (R92). -/
def execSetPhase (i : BitVec 2) (d : Data) (s : State) : Host.Outcome State Fault Refusal :=
  .next (perform (planSetPhase i d s) s)

end Sys2Proof.Machine
end

