-- ==== Sys2Proof/Machine/InitPower.lean ====
section
/-! DEFINITION. INIT and POWER (41_init_power.md R72 to R77). -/

namespace Sys2Proof.Machine

/-- `PowerBody(on)` (R76): both sleep bits cleared (on) or set (off), the mirror pushed. -/
def powerBody (on : Bool) : List Micro :=
  [.setBit .sleep1 (!on), .setBit .sleep12 (!on), .emitCmd]

/-- The lines of INIT (R72). INIT passes every check (R104). The mirror's SLEEP12 is set inside the reset frame's hold
(90_conflicts.md C4). -/
def planInit (s : State) : List Micro :=
  serve 0x1#4 0#2 0#64
    ([.clearCmd, .setBit .b28 true, .selEnable, .waitInit, .emit .any (resetWord s.cfg), .holdSetBit .sleep12 true] ++
      setFreqBody s.cfg .b0 0#64 ++ setFreqBody s.cfg .b1 0#64 ++
      setPhaseBody s.cfg .b0 0#12 ++ setPhaseBody s.cfg .b1 0#12 ++
      setFreqOutBody false ++ setPhaseOutBody false ++ powerBody false ++
      [.setMode modeOff, .setInit, .respond .ok 0#64]) s

/-- INIT (R72). -/
def execInit (s : State) : Host.Outcome State Fault Refusal :=
  .next (perform (planInit s) s)

/-- The lines of POWER (R76). -/
def planPower (d : Data) (s : State) : List Micro :=
  serve 0x2#4 0#2 d (powerBody (powerOn d) ++ [.respond .ok 0#64]) s

/-- POWER (R76). -/
def execPower (d : Data) (s : State) : Host.Outcome State Fault Refusal :=
  .next (perform (planPower d s) s)

end Sys2Proof.Machine
end

