-- ==== Sys2Proof/Machine/Mode.lean ====
section
/-! DEFINITION. SET_MODE (42_mode.md R78 to R82). -/

namespace Sys2Proof.Machine

/-- The waveform bits under OFF (R80): kept under UNCHANGED; under DRAW three free bits, in R78's order MODE, OPBITEN,
DIV2, and the count of draws moves on (log 7). -/
def offDraws (s : State) : List Micro :=
  match s.cfg.offPolicy with
  | .unchanged => []
  | .draw =>
    [.setBit .mode (Config.draw s.draws), .setBit .opbiten (Config.draw (s.draws + 1)),
     .setBit .div2 (Config.draw (s.draws + 2)), .countDraws 3]

/-- The bit pattern of a mode code (R78, R79); an unrecognized code changes no bit (R81). -/
def modeBits (m : BitVec 8) (s : State) : List Micro :=
  if m = modeSquare then [.setBit .opbiten true, .setBit .div2 true, .setBit .mode false]
  else if m = modeTriangle then [.setBit .mode true, .setBit .opbiten false]
  else if m = modeSine then [.setBit .opbiten false, .setBit .mode false]
  else if m = modeOff then [.setBit .sleep1 true, .setBit .sleep12 true] ++ offDraws s
  else []

/-- The lines of SET_MODE (R78): the bits, the cached code, one frame of the mirror. -/
def planSetMode (d : Data) (s : State) : List Micro :=
  serve 0x3#4 0#2 d (modeBits (modeCode d) s ++ [.setMode (modeCode d), .emitCmd, .respond .ok 0#64]) s

/-- SET_MODE (R78). -/
def execSetMode (d : Data) (s : State) : Host.Outcome State Fault Refusal :=
  .next (perform (planSetMode d s) s)

end Sys2Proof.Machine
end

