-- ==== Sys2Proof/Machine/Reserved.lean ====
section
/-! DEFINITION. The reserved request codes (30_encoding.md R51, 60_exceptions.md R104): `Check` turns each away with
ILLEGAL_OP, so the body that would follow is empty. -/

namespace Sys2Proof.Machine

/-- The lines of code 0x0. -/
def planReserved0 (s : State) : List Micro :=
  serve 0x0#4 0#2 0#64 [] s

/-- RESERVED_0 (R104). -/
def execReserved0 (s : State) : Host.Outcome State Fault Refusal :=
  .next (perform (planReserved0 s) s)

/-- The lines of code 0xD. -/
def planReservedD (s : State) : List Micro :=
  serve 0xD#4 0#2 0#64 [] s

/-- RESERVED_D (R104). -/
def execReservedD (s : State) : Host.Outcome State Fault Refusal :=
  .next (perform (planReservedD s) s)

/-- The lines of code 0xE. -/
def planReservedE (s : State) : List Micro :=
  serve 0xE#4 0#2 0#64 [] s

/-- RESERVED_E (R104). -/
def execReservedE (s : State) : Host.Outcome State Fault Refusal :=
  .next (perform (planReservedE s) s)

/-- The lines of code 0xF. -/
def planReservedF (s : State) : List Micro :=
  serve 0xF#4 0#2 0#64 [] s

/-- RESERVED_F (R104). -/
def execReservedF (s : State) : Host.Outcome State Fault Refusal :=
  .next (perform (planReservedF s) s)

end Sys2Proof.Machine
end

