-- ==== Sys2Proof/Machine/Wire.lean ====
section
/-! DEFINITION. The wire words as instructions of the sequencer: each is `Emit` of its 16-bit word (40_frame_controller.md
R62; formats 30_encoding.md R53 to R57). A wire word has no request code, so no check applies to it (log 5). -/

namespace Sys2Proof.Machine

/-- CMD (R54). -/
def planCmd (w : Word) (_s : State) : List Micro :=
  [.emit .any w]

/-- CMD (R54). -/
def execCmd (w : Word) (s : State) : Host.Outcome State Fault Refusal :=
  .next (perform (planCmd w s) s)

/-- RESETW (R57). -/
def planResetw (s : State) : List Micro :=
  [.emit .any (resetWord s.cfg)]

/-- RESETW (R57). -/
def execResetw (s : State) : Host.Outcome State Fault Refusal :=
  .next (perform (planResetw s) s)

/-- FREQ_LO_0 (R55). -/
def planFreqLo0 (l : BitVec 14) (s : State) : List Micro :=
  [.emit .freqLow (freqWord s.cfg .b0 l)]

/-- FREQ_LO_0 (R55). -/
def execFreqLo0 (l : BitVec 14) (s : State) : Host.Outcome State Fault Refusal :=
  .next (perform (planFreqLo0 l s) s)

/-- FREQ_HI_0 (R55). -/
def planFreqHi0 (h : BitVec 12) (s : State) : List Micro :=
  [.emit .freqHigh (freqHighWord s.cfg .b0 h)]

/-- FREQ_HI_0 (R55). -/
def execFreqHi0 (h : BitVec 12) (s : State) : Host.Outcome State Fault Refusal :=
  .next (perform (planFreqHi0 h s) s)

/-- FREQ_LO_1 (R55). -/
def planFreqLo1 (l : BitVec 14) (s : State) : List Micro :=
  [.emit .freqLow (freqWord s.cfg .b1 l)]

/-- FREQ_LO_1 (R55). -/
def execFreqLo1 (l : BitVec 14) (s : State) : Host.Outcome State Fault Refusal :=
  .next (perform (planFreqLo1 l s) s)

/-- FREQ_HI_1 (R55). -/
def planFreqHi1 (h : BitVec 12) (s : State) : List Micro :=
  [.emit .freqHigh (freqHighWord s.cfg .b1 h)]

/-- FREQ_HI_1 (R55). -/
def execFreqHi1 (h : BitVec 12) (s : State) : Host.Outcome State Fault Refusal :=
  .next (perform (planFreqHi1 h s) s)

/-- PHASE_0 (R56). -/
def planPhase0 (p : PhaseVal) (s : State) : List Micro :=
  [.emit .any (phaseWord s.cfg .b0 p)]

/-- PHASE_0 (R56). -/
def execPhase0 (p : PhaseVal) (s : State) : Host.Outcome State Fault Refusal :=
  .next (perform (planPhase0 p s) s)

/-- PHASE_1 (R56). -/
def planPhase1 (p : PhaseVal) (s : State) : List Micro :=
  [.emit .any (phaseWord s.cfg .b1 p)]

/-- PHASE_1 (R56). -/
def execPhase1 (p : PhaseVal) (s : State) : Host.Outcome State Fault Refusal :=
  .next (perform (planPhase1 p s) s)

end Sys2Proof.Machine
end

