-- ==== Sys2Proof/Machine/Plan.lean ====
section
/-! DEFINITION. The pseudocode lines of every instruction: what the sequencer of 10_state.md R26 takes as `q` when a request
is accepted. Each instruction's meaning performs the same lines as one atomic step. -/

namespace Sys2Proof.Machine

/-- The lines an accepted instruction performs, fixed at acceptance (R26, R131). -/
def plan (i : Instr) (s : State) : List Micro :=
  match i with
  | .init => planInit s
  | .power d => planPower d s
  | .setMode d => planSetMode d s
  | .setFreq i d => planSetFreq i d s
  | .setPhase i d => planSetPhase i d s
  | .setFreqOut i => planSetFreqOut i s
  | .setPhaseOut i => planSetPhaseOut i s
  | .getFreq i => planGetFreq i s
  | .getPhase i => planGetPhase i s
  | .getFreqOut => planGetFreqOut s
  | .getPhaseOut => planGetPhaseOut s
  | .getMode => planGetMode s
  | .reserved0 => planReserved0 s
  | .reservedD => planReservedD s
  | .reservedE => planReservedE s
  | .reservedF => planReservedF s
  | .cmd w => planCmd w s
  | .resetw => planResetw s
  | .freqLo0 l => planFreqLo0 l s
  | .freqHi0 h => planFreqHi0 h s
  | .freqLo1 l => planFreqLo1 l s
  | .freqHi1 h => planFreqHi1 h s
  | .phase0 p => planPhase0 p s
  | .phase1 p => planPhase1 p s

end Sys2Proof.Machine
end

