-- ==== Sys2Proof/Machine/Dispatch.lean ====
section
/-! DEFINITION. One arm per constructor of `Instr`, each one call of that instruction's meaning. -/

namespace Sys2Proof.Machine

def exec (i : Instr) (s : State) : Host.Outcome State Fault Refusal :=
  match i with
  | .init => Sys2Proof.Machine.execInit s
  | .power d => Sys2Proof.Machine.execPower d s
  | .setMode d => Sys2Proof.Machine.execSetMode d s
  | .setFreq j d => Sys2Proof.Machine.execSetFreq j d s
  | .setPhase j d => Sys2Proof.Machine.execSetPhase j d s
  | .setFreqOut j => Sys2Proof.Machine.execSetFreqOut j s
  | .setPhaseOut j => Sys2Proof.Machine.execSetPhaseOut j s
  | .getFreq j => Sys2Proof.Machine.execGetFreq j s
  | .getPhase j => Sys2Proof.Machine.execGetPhase j s
  | .getFreqOut => Sys2Proof.Machine.execGetFreqOut s
  | .getPhaseOut => Sys2Proof.Machine.execGetPhaseOut s
  | .getMode => Sys2Proof.Machine.execGetMode s
  | .reserved0 => Sys2Proof.Machine.execReserved0 s
  | .reservedD => Sys2Proof.Machine.execReservedD s
  | .reservedE => Sys2Proof.Machine.execReservedE s
  | .reservedF => Sys2Proof.Machine.execReservedF s
  | .cmd w => Sys2Proof.Machine.execCmd w s
  | .resetw => Sys2Proof.Machine.execResetw s
  | .freqLo0 l => Sys2Proof.Machine.execFreqLo0 l s
  | .freqHi0 h => Sys2Proof.Machine.execFreqHi0 h s
  | .freqLo1 l => Sys2Proof.Machine.execFreqLo1 l s
  | .freqHi1 h => Sys2Proof.Machine.execFreqHi1 h s
  | .phase0 p => Sys2Proof.Machine.execPhase0 p s
  | .phase1 p => Sys2Proof.Machine.execPhase1 p s

end Sys2Proof.Machine
end

