-- ==== Sys2Proof/Machine/Cycle.lean ====
section
/-! DEFINITION. The cycle level: what one rising edge of `clk` does (30_encoding.md R46, R47; 40_frame_controller.md R60 to
R70; 60_exceptions.md R110; 70_reset_and_hazards.md R117, R124). A state describes the present cycle; `clockEdge` takes
the input levels sampled at the edge that ends it and gives the next cycle. -/

namespace Sys2Proof.Machine

/-- Entering F_SETUP(0) sets `sel_n` to 0 in that cycle (R63). -/
def beginFrame (w : Word) (q : List Micro) (s : State) : State :=
  { s with selN := false, seq := .busy (some (.setup w 0)) q }

/-- Begin the next event of `q`, performing the state writes that stand before it (log 10); IDLE when `q` is empty (R26).
`SelEnable` acts in its one cycle (R69), `Respond` gives the cycle with `resp_valid = 1` (R46). -/
def advance : List Micro → State → State
  | [], s => { s with seq := .idle }
  | op :: q, s =>
    match op with
    | .selEnable => { selEnable s with seq := .busy (some .selEnable) q }
    | .waitInit => { s with seq := .busy (some (.wait 0)) q }
    | .emitCmd => beginFrame s.cmd q s
    | .emit _ w => beginFrame w q s
    | .respond st d => { applyMicro (.respond st d) s with seq := .busy (some .responding) q }
    | .clearCmd => advance q (applyMicro .clearCmd s)
    | .setBit f b => advance q (applyMicro (.setBit f b) s)
    | .holdSetBit f b => advance q (applyMicro (.holdSetBit f b) s)
    | .setFreq i f => advance q (applyMicro (.setFreq i f) s)
    | .setPhase i p => advance q (applyMicro (.setPhase i p) s)
    | .setFsel b => advance q (applyMicro (.setFsel b) s)
    | .setPsel b => advance q (applyMicro (.setPsel b) s)
    | .setMode m => advance q (applyMicro (.setMode m) s)
    | .setInit => advance q (applyMicro .setInit s)
    | .countDraws n => advance q (applyMicro (.countDraws n) s)

/-- The low byte is sent: F_HOLD(0) begins (R63). A mirror write the request places inside this frame's hold is performed in
the hold's first cycle (90_conflicts.md C4; which cycle of the hold is a DESIGN CHOICE, log 10). -/
def beginHold (w : Word) (q : List Micro) (s : State) : State :=
  match q with
  | .holdSetBit f b :: rest => { applyMicro (.holdSetBit f b) s with seq := .busy (some (.hold w 0)) rest }
  | lines => { s with seq := .busy (some (.hold w 0)) lines }

/-- Block reset (R117, R30): every field of `st` and both ports at the reset value. The parameters, the trace of what was
already emitted, the inputs still to come and the count of draws are no part of the block (log 13). -/
def blockReset (s : State) : State :=
  { State.reset with cfg := s.cfg, trace := s.trace, inputs := s.inputs, draws := s.draws }

/-- A request is accepted (R46): its lines are fixed and the first of them begins. -/
def accept (r : Request) (s : State) : State :=
  advance (plan (decodeRequest r) s) s

/-- The next cycle of the event in progress (R63's table). A wait of `N` cycles leaves when `n + 1 = N` (log 14). The frame's
event is appended when `sel_n` rises (log 15). A `tx_done` outside F_HI and F_LO is not looked at (R65). -/
def nextPhase (txDone : Bool) (ph : Phase) (q : List Micro) (s : State) : State :=
  match ph with
  | .selEnable => advance q s
  | .wait n => if s.cfg.nInit ≤ n + 1 then advance q s else { s with seq := .busy (some (.wait (n + 1))) q }
  | .setup w n =>
    if s.cfg.nSu ≤ n + 1 then { s with seq := .busy (some (.hi w true)) q }
    else { s with seq := .busy (some (.setup w (n + 1))) q }
  | .hi w _ => { s with seq := .busy (some (if txDone then .lo w true else .hi w false)) q }
  | .lo w _ => if txDone then beginHold w q s else { s with seq := .busy (some (.lo w false)) q }
  | .hold w n =>
    if s.cfg.nH ≤ n + 1 then { emitFrame w s with seq := .busy (some (.gap 0)) q }
    else { s with seq := .busy (some (.hold w (n + 1))) q }
  | .gap n => if s.cfg.nGap ≤ n + 1 then advance q s else { s with seq := .busy (some (.gap (n + 1))) q }
  | .responding => advance q { s with resp := none }

/-- One rising edge of `clk`. -/
def clockEdge (p : Pins) (s : State) : State :=
  if p.rst then blockReset s
  else
    match s.seq with
    | .idle => if p.reqValid then accept p.req { s with resp := none } else { s with resp := none }
    | .busy none q => advance q s
    | .busy (some ph) q => nextPhase p.txDone ph q s

/-- Several edges in a row. -/
def clockEdges : List Pins → State → State
  | [], s => s
  | p :: ps, s => clockEdges ps (clockEdge p s)

end Sys2Proof.Machine
end

