-- ==== Sys2Proof/Machine/Fetch.lean ====
section
/-! DEFINITION. What the next step does: the clock edge at the head of `inputs`, else the next event of a busy sequencer,
else the request the host presents (assumption log 3). -/

namespace Sys2Proof.Machine

/-- What was fetched, and the state it runs in. -/
inductive Fetched where
  /-- a rising edge of `clk` with these input levels -/
  | edge (p : Pins) (s : State)
  /-- an instruction: an accepted request, or a wire word of the sequencer's queue -/
  | run (i : Instr) (s : State)
  /-- a move of the sequencer that is no instruction -/
  | internal (s : State)
  deriving DecidableEq, Repr

/-- The event in progress completed at transaction level: a frame ends as R62's transaction-level pseudocode says, the other
events have nothing left to do. -/
def finishPhase (ph : Phase) (s : State) : State :=
  match ph with
  | .setup w _ => emitFrame w s
  | .hi w _ => emitFrame w s
  | .lo w _ => emitFrame w s
  | .hold w _ => emitFrame w s
  | .gap _ => s
  | .selEnable => s
  | .wait _ => s
  | .responding => { s with resp := none }

/-- A wire word of the queue is decoded by its tag bits and position. A word of no format is framed all the same, since the
frame controller never inspects it (R62). -/
def fetchWord (slot : Slot) (w : Word) (s : State) : Fetched :=
  match decodeWire s.cfg slot w with
  | .ok i => .run i s
  | .error _ => .internal (emitFrame w s)

/-- The next event of a busy sequencer at transaction level. -/
def fetchQueue (cur : Option Phase) (q : List Micro) (s : State) : Fetched :=
  match cur with
  | some ph => .internal { finishPhase ph s with seq := .busy none q }
  | none =>
    match q with
    | [] => .internal { s with seq := .idle, resp := none }
    | op :: q' =>
      match op with
      | .emit slot w => fetchWord slot w { s with seq := .busy none q' }
      | .emitCmd => fetchWord .any s.cmd { s with seq := .busy none q' }
      | .clearCmd => .internal (applyMicro .clearCmd { s with seq := .busy none q' })
      | .setBit f b => .internal (applyMicro (.setBit f b) { s with seq := .busy none q' })
      | .holdSetBit f b => .internal (applyMicro (.holdSetBit f b) { s with seq := .busy none q' })
      | .setFreq i f => .internal (applyMicro (.setFreq i f) { s with seq := .busy none q' })
      | .setPhase i p => .internal (applyMicro (.setPhase i p) { s with seq := .busy none q' })
      | .setFsel b => .internal (applyMicro (.setFsel b) { s with seq := .busy none q' })
      | .setPsel b => .internal (applyMicro (.setPsel b) { s with seq := .busy none q' })
      | .setMode m => .internal (applyMicro (.setMode m) { s with seq := .busy none q' })
      | .setInit => .internal (applyMicro .setInit { s with seq := .busy none q' })
      | .countDraws n => .internal (applyMicro (.countDraws n) { s with seq := .busy none q' })
      | .selEnable => .internal (applyMicro .selEnable { s with seq := .busy none q' })
      | .waitInit => .internal (applyMicro .waitInit { s with seq := .busy none q' })
      | .respond st d => .internal (applyMicro (.respond st d) { s with seq := .busy none q' })

/-- A request waits at the head of `inputs` until the sequencer is IDLE (R47, R128); with none presented the block stays
IDLE (R118). The response of the request before is over (R46). -/
def fetch (s : State) : Fetched :=
  match s.inputs with
  | .clock p :: rest => .edge p { s with inputs := rest }
  | .request r :: rest =>
    match s.seq with
    | .idle => .run (decodeRequest r) { s with inputs := rest, resp := none }
    | .busy cur q => fetchQueue cur q s
  | [] =>
    match s.seq with
    | .idle => .internal { s with resp := none }
    | .busy cur q => fetchQueue cur q s

/-- Drop the clock edges at the head of a list of inputs. -/
def dropClocks : List Input → List Input
  | .clock _ :: rest => dropClocks rest
  | .request r :: rest => .request r :: rest
  | [] => []

/-- Put one code where the next step fetches: a request is presented to an IDLE block, a wire word is the one event of a busy
sequencer, with no clock edge before it. -/
def placeCode (code : Code) (s : State) : State :=
  match code with
  | .request h d => { s with seq := .idle, inputs := .request (requestOf h d) :: s.inputs }
  | .wire slot w => { s with seq := .busy none [.emit slot w], inputs := dropClocks s.inputs }

end Sys2Proof.Machine
end

