-- ==== Sys2Proof/Machine/Step.lean ====
section
/-! DEFINITION. One step of the machine, and how an opcode-table word is put where the next step fetches. -/

namespace Sys2Proof.Machine

/-- One step: an accepted request as one atomic step (00_scope.md R8), one wire word or other event of a busy sequencer, or
one clock edge, as `fetch` says. -/
def step (s : State) : Host.Outcome State Fault Refusal :=
  match fetch s with
  | .edge p t => .next (clockEdge p t)
  | .run i t => exec i t
  | .internal t => .next t

/-- `s` with the opcode-table word placed where `step` fetches its next instruction (assumption log 4). A width the table
does not use places nothing. -/
def State.withFetchWord (s : State) (nbits w : Nat) : State :=
  match codeOfTableWord nbits w with
  | some code => placeCode code s
  | none => s

end Sys2Proof.Machine
end

