-- ==== Sys2Proof/Machine/Assembler.lean ====
section
/-! DEFINITION. The assembler syntax of request programs (30_encoding.md R59): one request a line, `mnemonic operands`, with
the pseudo-forms `power on|off` and `set_mode off|triangle|square|sine`. A decimal literal denotes the nearest binary64,
ties to even. Spellings R59 leaves open are in assumption log 16. -/

namespace Sys2Proof.Machine

/-- Why a line is no request. -/
inductive AsmError where
  /-- the first word is no mnemonic of R59 -/
  | unknownMnemonic
  /-- the operands are not those the mnemonic takes -/
  | operandCount
  /-- an operand is not written as a number -/
  | notANumber
  /-- an operand does not fit its field (R59) -/
  | doesNotFit
  deriving DecidableEq, Repr

/-- A character that separates words. The parentheses of the document's call form separate too, so that
`set_frequency(0, 1000.0)` is the same request (R59). -/
def isBlank (c : Char) : Bool :=
  c == ' ' || c == '\t' || c == '(' || c == ')'

/-- Put a finished word before the words that follow. -/
def pushWord (acc : List Char) (rest : List (List Char)) : List (List Char) :=
  if acc.isEmpty then rest else acc.reverse :: rest

/-- The words of a line; a comma is a word of its own. `acc` is the word being read, backwards. -/
def words (acc : List Char) : List Char → List (List Char)
  | [] => pushWord acc []
  | c :: cs =>
    if isBlank c then pushWord acc (words [] cs)
    else if c == ',' then pushWord acc ([','] :: words [] cs)
    else words (c :: acc) cs

/-- The value of a digit in the given base. -/
def digitVal (base : Nat) (c : Char) : Option Nat :=
  let n := c.toNat
  let v :=
    if 48 ≤ n ∧ n ≤ 57 then some (n - 48)
    else if 97 ≤ n ∧ n ≤ 102 then some (n - 87)
    else if 65 ≤ n ∧ n ≤ 70 then some (n - 55)
    else none
  match v with
  | some d => if d < base then some d else none
  | none => none

/-- The digits of a number, most significant first, after those already read. -/
def digits (base : Nat) (acc : Nat) : List Char → Option Nat
  | [] => some acc
  | c :: cs =>
    match digitVal base c with
    | some d => digits base (acc * base + d) cs
    | none => none

/-- An unsigned integer, decimal or `0x` hexadecimal. -/
def parseNat (w : List Char) : Except AsmError Nat :=
  match (match w with
    | [] => none
    | ['0', 'x'] => none
    | '0' :: 'x' :: cs => digits 16 0 cs
    | cs => digits 10 0 cs) with
  | some n => .ok n
  | none => .error .notANumber

/-- An unsigned integer below `bound`. -/
def parseBelow (bound : Nat) (w : List Char) : Except AsmError Nat :=
  match parseNat w with
  | .ok n => if n < bound then .ok n else .error .doesNotFit
  | .error e => .error e

/-- The part of a list before a character that satisfies `p`, and the part after it if there is one. -/
def splitWhen (p : Char → Bool) : List Char → List Char × Option (List Char)
  | [] => ([], none)
  | c :: cs => if p c then ([], some cs) else (c :: (splitWhen p cs).1, (splitWhen p cs).2)

/-- Nearest binary64 to `num / den`, ties to even, as the bits below the sign; the infinity's pattern past the largest finite
one. `e` is the exponent of the unit in the last place, at least that of the subnormals. -/
def roundBits (num den : Nat) : Nat :=
  if num = 0 then 0
  else
    let k : Int := (Nat.log2 num : Int) - (Nat.log2 den : Int)
    let atLeast : Bool := decide (den * 2 ^ k.toNat ≤ num * 2 ^ (-k).toNat)
    let e : Int := max (-1074) ((if atLeast then k else k - 1) - 52)
    let n := num * 2 ^ (-e).toNat
    let d := den * 2 ^ e.toNat
    let q := n / d
    let r := n % d
    let q' := if d < 2 * r ∨ (d = 2 * r ∧ q % 2 = 1) then q + 1 else q
    min ((e + 1074).toNat * 2 ^ 52 + q') (0x7FF * 2 ^ 52)

/-- The binary64 pattern of `± m * 10^e`. -/
def decimalPattern (neg : Bool) (m : Nat) (e : Int) : Data :=
  BitVec.ofNat 64 ((if neg then 2 ^ 63 else 0) + roundBits (m * 10 ^ e.toNat) (10 ^ (-e).toNat))

/-- A decimal exponent with its optional sign. -/
def parseExponent (w : List Char) : Option Int :=
  match w with
  | [] => none
  | '-' :: [] => none
  | '+' :: [] => none
  | '-' :: cs => (digits 10 0 cs).map (fun n => -(n : Int))
  | '+' :: cs => (digits 10 0 cs).map (fun n => (n : Int))
  | cs => (digits 10 0 cs).map (fun n => (n : Int))

/-- An unsigned decimal literal as its binary64 pattern with the given sign. -/
def parseDecimal (neg : Bool) (w : List Char) : Except AsmError Data :=
  let body := splitWhen (fun c => c == 'e' || c == 'E') w
  let parts := splitWhen (fun c => c == '.') body.1
  let frac := parts.2.getD []
  let ex : Option Int := match body.2 with
    | none => some 0
    | some cs => parseExponent cs
  match (if parts.1.isEmpty then none else digits 10 0 (parts.1 ++ frac)), ex with
  | some m, some e => .ok (decimalPattern neg m (e - frac.length))
  | _, _ => .error .notANumber

/-- A `<float>` operand as its binary64 pattern. The words `+inf`, `-inf` and `NaN` of 95_test_vectors.md are read as the
patterns given there. -/
def parseFloat (w : List Char) : Except AsmError Data :=
  if w = "+inf".toList then .ok 0x7FF0000000000000#64
  else if w = "-inf".toList then .ok 0xFFF0000000000000#64
  else if w = "NaN".toList then .ok 0x7FF8000000000000#64
  else
    match w with
    | '-' :: cs => parseDecimal true cs
    | '+' :: cs => parseDecimal false cs
    | cs => parseDecimal false cs

/-- A request without operands. -/
def asmNone (op : BitVec 4) (args : List (List Char)) : Except AsmError Request :=
  match args with
  | [] => .ok { op := op, idx := 0#2, data := 0#64 }
  | _ => .error .operandCount

/-- A request with one integer operand in `D`, or one of the named values. -/
def asmData (op : BitVec 4) (names : List (List Char × Nat)) (args : List (List Char)) : Except AsmError Request :=
  match args with
  | [w] =>
    match names.lookup w with
    | some n => .ok { op := op, idx := 0#2, data := BitVec.ofNat 64 n }
    | none =>
      match parseBelow (2 ^ 64) w with
      | .ok n => .ok { op := op, idx := 0#2, data := BitVec.ofNat 64 n }
      | .error e => .error e
  | _ => .error .operandCount

/-- A request with an index only. -/
def asmIndex (op : BitVec 4) (args : List (List Char)) : Except AsmError Request :=
  match args with
  | [w] =>
    match parseBelow 4 w with
    | .ok i => .ok { op := op, idx := BitVec.ofNat 2 i, data := 0#64 }
    | .error e => .error e
  | _ => .error .operandCount

/-- A request with an index and an operand read by `p`. -/
def asmIndexData (op : BitVec 4) (p : List Char → Except AsmError Data) (args : List (List Char)) :
    Except AsmError Request :=
  match args with
  | [w, [','], v] =>
    match parseBelow 4 w, p v with
    | .ok i, .ok d => .ok { op := op, idx := BitVec.ofNat 2 i, data := d }
    | .error e, _ => .error e
    | _, .error e => .error e
  | _ => .error .operandCount

/-- An integer operand below `2^64` as `D`. -/
def parseData (w : List Char) : Except AsmError Data :=
  match parseBelow (2 ^ 64) w with
  | .ok n => .ok (BitVec.ofNat 64 n)
  | .error e => .error e

/-- The request of one line (R59). -/
def assemble (line : String) : Except AsmError Request :=
  match words [] line.toList with
  | [] => .error .unknownMnemonic
  | m :: args =>
    if m = "init".toList then asmNone 0x1#4 args
    else if m = "power".toList then asmData 0x2#4 [("on".toList, 1), ("off".toList, 0)] args
    else if m = "set_mode".toList then
      asmData 0x3#4 [("off".toList, 0), ("triangle".toList, 1), ("square".toList, 2), ("sine".toList, 3)] args
    else if m = "set_frequency".toList then asmIndexData 0x4#4 parseFloat args
    else if m = "set_phase".toList then asmIndexData 0x5#4 parseData args
    else if m = "set_freq_out".toList then asmIndex 0x6#4 args
    else if m = "set_phase_out".toList then asmIndex 0x7#4 args
    else if m = "get_frequency".toList then asmIndex 0x8#4 args
    else if m = "get_phase".toList then asmIndex 0x9#4 args
    else if m = "get_freq_out".toList then asmNone 0xA#4 args
    else if m = "get_phase_out".toList then asmNone 0xB#4 args
    else if m = "get_mode".toList then asmNone 0xC#4 args
    else .error .unknownMnemonic

end Sys2Proof.Machine
end

