-- ==== Sys2Proof/Machine/Line.lean ====
section
/-! DEFINITION. What leaves the block on the serial line (20_memory.md R35 to R37): the byte stream of a trace, and a line
model's bit order. The block hands the transport whole bytes; `TX_BIT_ORDER` matters to a line model only. -/

namespace Sys2Proof.Machine

/-- The bytes an event hands to the transport, in order: two for a frame, most significant first (R36); none for
`SelEnable`. -/
def eventBytes : Event → List Byte
  | .selEnable => []
  | .frame w => wireBytes w

/-- The byte stream of a trace (R42: frames do not interleave). -/
def traceBytes (t : List Event) : List Byte :=
  t.flatMap eventBytes

/-- The frames of a trace, in order. -/
def framesOf (t : List Event) : List Word :=
  t.filterMap (fun e => match e with | .selEnable => none | .frame w => some w)

/-- The bits of a byte in the order a line model sends them (R37); the two orders are the model's choice (log 19). -/
def lineBits (o : BitOrder) (b : Byte) : List Bool :=
  match o with
  | .msbFirst => (List.range 8).map (fun k => b.getLsbD (7 - k))
  | .lsbFirst => (List.range 8).map (fun k => b.getLsbD k)

/-- The bit stream of a trace for a line model (R37). -/
def traceBits (o : BitOrder) (t : List Event) : List Bool :=
  (traceBytes t).flatMap (lineBits o)

end Sys2Proof.Machine
end

