-- ==== Sys2Proof/Safety.lean ====
section
/-! DEFINITION. The terms claims are made in: what a request leaves behind, the transaction-level state a cycle-level state
stands for, and the invariant of the machine. -/

namespace Sys2Proof.Machine

/-! ### What a request leaves behind -/

/-- `Respond(st, d)`: the response port, and nothing else, changed. -/
def answered (st : Status) (d : Data) (s : State) : State :=
  { s with resp := some { status := st, data := d } }

/-- The words framed in this order, `sel_n` back at 1, and nothing else changed. -/
def emitted (ws : List Word) (s : State) : State :=
  { s with selN := true, trace := s.trace ++ ws.map Event.frame }

/-- The frames that stand in `t`'s trace after the whole of `s`'s. -/
def newFrames (s t : State) : List Word :=
  framesOf (t.trace.drop s.trace.length)

/-- The instruction comes from the request port (the wire words do not). -/
def isRequest : Instr → Bool
  | .init => true
  | .power _ => true
  | .setMode _ => true
  | .setFreq _ _ => true
  | .setPhase _ _ => true
  | .setFreqOut _ => true
  | .setPhaseOut _ => true
  | .getFreq _ => true
  | .getPhase _ => true
  | .getFreqOut => true
  | .getPhaseOut => true
  | .getMode => true
  | .reserved0 => true
  | .reservedD => true
  | .reservedE => true
  | .reservedF => true
  | .cmd _ => false
  | .resetw => false
  | .freqLo0 _ => false
  | .freqHi0 _ => false
  | .freqLo1 _ => false
  | .freqHi1 _ => false
  | .phase0 _ => false
  | .phase1 _ => false

/-! ### The transaction-level state of a cycle-level state -/

/-- The event in progress, completed. -/
def finishCurrent (s : State) : State :=
  match s.seq with
  | .busy (some ph) _ => finishPhase ph s
  | .busy none _ => s
  | .idle => s

/-- The lines still to perform (10_state.md R26). -/
def pending : Seq → List Micro
  | .busy _ q => q
  | .idle => []

/-- The state after everything already accepted has taken effect, the port quiet and the sequencer IDLE: what the cycle-level
state stands for at the transaction level of 00_scope.md R8. -/
def settled (s : State) : State :=
  { perform (pending s.seq) (finishCurrent s) with seq := .idle, resp := none }

/-! ### Runs of the cycle level -/

/-- The state after the first `n` edges of an endless sequence of edges. -/
def runEdges (edges : Nat → Pins) (s : State) : Nat → State
  | 0 => s
  | n + 1 => clockEdge (edges n) (runEdges edges s n)

/-- The transport's weak fairness (60_exceptions.md R114): whenever a byte is being sent, `tx_done` comes after some finite
delay. How long the delay is, and whether it is the same for two bytes, is left open. -/
def AnswersEveryByte (edges : Nat → Pins) (s : State) : Prop :=
  ∀ n, (runEdges edges s n).txByte.isSome = true → ∃ m, n ≤ m ∧ (edges m).txDone = true

/-- The lines from which the next cycle begins its event: those of the request being accepted, or those still to perform. -/
def linesAt (p : Pins) (s : State) : List Micro :=
  match s.seq with
  | .busy _ q => q
  | .idle => if p.reqValid then plan (decodeRequest p.req) s else []

/-- The word of the frame these lines begin with, once the state writes before it are made, and the lines after it; `none`
when another event, or nothing, comes first. -/
def nextFrame : List Micro → State → Option (Word × List Micro)
  | [], _ => none
  | op :: q, s =>
    match op with
    | .emit _ w => some (w, q)
    | .emitCmd => some (s.cmd, q)
    | .selEnable => none
    | .waitInit => none
    | .respond _ _ => none
    | .clearCmd => nextFrame q (applyMicro .clearCmd s)
    | .setBit f b => nextFrame q (applyMicro (.setBit f b) s)
    | .holdSetBit f b => nextFrame q (applyMicro (.holdSetBit f b) s)
    | .setFreq i f => nextFrame q (applyMicro (.setFreq i f) s)
    | .setPhase i p => nextFrame q (applyMicro (.setPhase i p) s)
    | .setFsel b => nextFrame q (applyMicro (.setFsel b) s)
    | .setPsel b => nextFrame q (applyMicro (.setPsel b) s)
    | .setMode m => nextFrame q (applyMicro (.setMode m) s)
    | .setInit => nextFrame q (applyMicro .setInit s)
    | .countDraws n => nextFrame q (applyMicro (.countDraws n) s)

/-- The word of the frame in progress while select is low for it (40_frame_controller.md R63). -/
def Phase.frameWord : Phase → Option Word
  | .setup w _ => some w
  | .hi w _ => some w
  | .lo w _ => some w
  | .hold w _ => some w
  | .gap _ => none
  | .selEnable => none
  | .wait _ => none
  | .responding => none

/-! ### The invariant -/

/-- What holds of the block between requests: the caches agree with the mirror (R24), the reserved positions and RESET are 0
(R17, R20), the sleep bits move together (R77), and after INIT 28-bit mode is on (R89) and the pin is driven (R71). -/
structure Consistent (s : State) : Prop where
  fsel : s.fsel = s.field .fsel
  psel : s.psel = s.field .psel
  reserved : s.cfg.reservedClear s.cmd = true
  reset : s.field .reset = false
  sleep : s.field .sleep1 = s.field .sleep12
  b28 : s.init = true → s.field .b28 = true
  pin : s.init = true → s.selOe = true

/-- The event in progress holds the select pin low (40_frame_controller.md R67). -/
def selectIsLow (s : State) : Bool :=
  match s.seq with
  | .busy (some ph) _ => ph.selectLow
  | .busy none _ => false
  | .idle => false

/-- The line frames a word. -/
def Micro.frames : Micro → Bool
  | .emit _ _ => true
  | .emitCmd => true
  | .clearCmd => false
  | .setBit _ _ => false
  | .holdSetBit _ _ => false
  | .setFreq _ _ => false
  | .setPhase _ _ => false
  | .setFsel _ => false
  | .setPsel _ => false
  | .setMode _ => false
  | .setInit => false
  | .countDraws _ => false
  | .selEnable => false
  | .waitInit => false
  | .respond _ _ => false

/-- The line makes the select pin an output. -/
def Micro.drives : Micro → Bool
  | .selEnable => true
  | .emit _ _ => false
  | .emitCmd => false
  | .clearCmd => false
  | .setBit _ _ => false
  | .holdSetBit _ _ => false
  | .setFreq _ _ => false
  | .setPhase _ _ => false
  | .setFsel _ => false
  | .setPsel _ => false
  | .setMode _ => false
  | .setInit => false
  | .countDraws _ => false
  | .waitInit => false
  | .respond _ _ => false

/-- Every frame of these lines finds the pin driven, if `oe` says whether it is driven before them (R71). -/
def drivenLines (oe : Bool) : List Micro → Bool
  | [] => true
  | op :: q => (!op.frames || oe) && drivenLines (oe || op.drives) q

/-- The invariant every step keeps: legal parameters (R10), the block consistent once what it has accepted is settled, the
select level right in every cycle (R67), and no word ever framed on an undriven pin (R71). -/
structure Inv (s : State) : Prop where
  wf : s.cfg.Wf
  consistent : Consistent (settled s)
  level : s.selN = !selectIsLow s
  drivenNow : selectIsLow s = true → s.selOe = true
  drivenNext : drivenLines s.selOe (pending s.seq) = true

end Sys2Proof.Machine
end

