-- ==== Sys2Proof/Certificates/Slice0/Obligations.lean ====
section
/-! DEFINITION. The statements about the model, from the spec's numbered rules. Words used below: `answered st d s` is `s`
with the response `(st, d)` on the port and nothing else changed; `emitted ws s` is `s` with the frames `ws` appended to the
trace, `sel_n` at 1, and nothing else changed (both in Sys2Proof/Safety.lean). An equation `exec i s = .next t` states the
result and the whole frame of `i` at once. -/

open Sys2Proof Sys2Proof.Machine

/-! ### Reset -/

/-- R30, R117: at an edge with `rst = 1` every field of `st` and both ports take the reset value, whatever they were before;
when `rst` falls the block is IDLE and ready. -/
def Obligations.ResetEdgeRestoresEveryField : Prop :=
  ∀ (p : Pins) (s : State), p.rst = true →
    let t := clockEdge p s
    t.cmd = 0x0000#16 ∧ t.freq0 = 0#64 ∧ t.freq1 = 0#64 ∧ t.phase0 = 0#12 ∧ t.phase1 = 0#12 ∧
    t.fsel = false ∧ t.psel = false ∧ t.mode = 0#8 ∧ t.init = false ∧ t.selOe = false ∧ t.selN = true ∧
    t.seq = .idle ∧ t.respValid = false ∧ t.txStart = false ∧ t.reqReady true = false ∧ t.reqReady false = true

/-- R30, R118: the state right after reset holds R30's values and waits, ready, for a request. -/
def Obligations.ResetStateHoldsSpecValues : Prop :=
  let s := State.reset
  s.cmd = 0x0000#16 ∧ s.freq0 = 0#64 ∧ s.freq1 = 0#64 ∧ s.phase0 = 0#12 ∧ s.phase1 = 0#12 ∧
  s.fsel = false ∧ s.psel = false ∧ s.mode = 0#8 ∧ s.init = false ∧ s.selOe = false ∧ s.selN = true ∧
  s.seq = .idle ∧ s.respValid = false ∧ s.txStart = false ∧ s.reqReady false = true ∧ s.selPad = none

/-! ### The step -/

/-- R8, R62, R63: what a step does. When the sequencer is IDLE and the host presents a request, the step is `exec` of its
instruction; the request is taken from the inputs and the response of the request before is over. When the sequencer's next
line is a frame, of a given word or of the mirror, whose word decodes and no clock edge stands before it, the step is `exec` of
the wire word, the line taken from the queue. When a clock edge stands at the head of the inputs, the step is that edge. -/
def Obligations.StepRunsTheDecodedInstruction : Prop :=
  (∀ (s : State) (r : Request) (rest : List Input), s.seq = .idle → s.inputs = .request r :: rest →
    step s = exec (decodeRequest r) { s with inputs := rest, resp := none }) ∧
  (∀ (s : State) (slot : Slot) (w : Word) (q : List Micro) (i : Instr),
    s.seq = .busy none (.emit slot w :: q) → (∀ p rest, s.inputs ≠ .clock p :: rest) →
    decodeWire s.cfg slot w = .ok i →
    step s = exec i { s with seq := .busy none q }) ∧
  (∀ (s : State) (q : List Micro) (i : Instr),
    s.seq = .busy none (.emitCmd :: q) → (∀ p rest, s.inputs ≠ .clock p :: rest) →
    decodeWire s.cfg .any s.cmd = .ok i →
    step s = exec i { s with seq := .busy none q }) ∧
  (∀ (s : State) (p : Pins) (rest : List Input), s.inputs = .clock p :: rest →
    step s = .next (clockEdge p { s with inputs := rest }))

/-- R106, R62, R126: no state stops the machine: a rejection is a next state, a frame cannot fail, a stall is a next state. -/
def Obligations.StepAlwaysAnswersNext : Prop :=
  ∀ s : State, ∃ t, step s = .next t

/-- R121, R42: the parameters are fixed when the block is built, so no step writes them; the trace is only ever appended to. -/
def Obligations.StepKeepsParametersAndTrace : Prop :=
  ∀ s t : State, step s = .next t → t.cfg = s.cfg ∧ ∃ ev, t.trace = s.trace ++ ev

/-! ### Encodings -/

/-- A few words written out from R48, R49 and R54 to R57 decode to what they stand for, with the default layout. -/
def Obligations.SampleWordsDecode : Prop :=
  decodeTableWord 8 0x10 = some .init ∧
  decodeTableWord 8 0x42 = some (.setFreq 2#2 0#64) ∧
  decodeTableWord 8 0x91 = some (.getPhase 1#2) ∧
  decodeTableWord 8 0xD0 = some .reservedD ∧
  decodeTableWord 72 0x80050 = some (.setPhase 0#2 0x800#64) ∧
  decodeTableWord 16 0x0140 = some .resetw ∧
  decodeTableWord 16 0x20C0 = some (.cmd 0x20C0#16) ∧
  decodeTableWord 16 0x6F31 = some (.freqLo0 0x2F31#14) ∧
  decodeTableWord 16 0x8800 = some (.freqHi1 0x800#12) ∧
  decodeTableWord 16 0xE123 = some (.phase1 0x123#12)

/-- R48: the header's fields, and that a decoder ignores `H[3:2]`. -/
def Obligations.HeaderCarriesOpAndIndex : Prop :=
  (∀ r : Request, r.header.extractLsb' 4 4 = r.op ∧ r.header.extractLsb' 2 2 = 0#2 ∧ r.header.extractLsb' 0 2 = r.idx ∧
    requestOf r.header r.data = r) ∧
  (∀ (h g : Byte) (d : Data), h.extractLsb' 4 4 = g.extractLsb' 4 4 → h.extractLsb' 0 2 = g.extractLsb' 0 2 →
    requestOf h d = requestOf g d)

/-- R48 to R57: under any legal parameters every well-formed instruction, with every operand, is decoded from its own code. -/
def Obligations.DecodeInvertsEncode : Prop :=
  ∀ (c : Config) (i : Instr), c.Wf → i.wellFormed c = true → decode c (encode c i) = .ok i

/-- R54 to R58: a wire word that decodes is the word its instruction is encoded as: no bit of it is lost. -/
def Obligations.EncodeInvertsWireDecode : Prop :=
  ∀ (c : Config) (slot : Slot) (w : Word) (i : Instr), c.Wf → decodeWire c slot w = .ok i →
    ∃ slot', encode c i = .wire slot' w

/-- R36: a frame's two bytes, most significant first, make up its word again; `SelEnable` sends none; a trace's bytes are its
events' in order. -/
def Obligations.FramesAreTwoBytesHighFirst : Prop :=
  (∀ w : Word, eventBytes (.frame w) = [w.extractLsb' 8 8, w.extractLsb' 0 8] ∧
    wireOfBytes (w.extractLsb' 8 8) (w.extractLsb' 0 8) = w) ∧
  (∀ (w : Word) (t : List Event),
    traceBytes (.frame w :: t) = w.extractLsb' 8 8 :: w.extractLsb' 0 8 :: traceBytes t) ∧
  (∀ t : List Event, traceBytes (.selEnable :: t) = traceBytes t) ∧
  traceBytes [] = [] ∧ (∀ e : Event, traceBytes [e] = eventBytes e) ∧
  (∀ a b : List Event, traceBytes (a ++ b) = traceBytes a ++ traceBytes b)

/-! ### The acceptance check and rejections -/

/-- R104: each status is reported exactly when its cause applies and none before it in the order does; only if the check
passes does the operation's rule run, else the status is answered and nothing else happens. -/
def Obligations.CheckReportsFirstCause : Prop :=
  ∀ (op : BitVec 4) (idx : BitVec 2) (d : Data) (s : State),
    let illegal := op.toNat = 0 ∨ 13 ≤ op.toNat
    let early := op.toNat ≠ 1 ∧ s.init = false
    let index := 4 ≤ op.toNat ∧ op.toNat ≤ 9 ∧ 1 < idx.toNat
    let infinite := op.toNat = 4 ∧ d.extractLsb' 52 11 = 0x7FF#11
    (checkRequest op idx d s = some .illegalOp ↔ illegal) ∧
    (checkRequest op idx d s = some .notInit ↔ ¬ illegal ∧ early) ∧
    (checkRequest op idx d s = some .badIndex ↔ ¬ illegal ∧ ¬ early ∧ index) ∧
    (checkRequest op idx d s = some .badValue ↔ ¬ illegal ∧ ¬ early ∧ ¬ index ∧ infinite) ∧
    (checkRequest op idx d s = none ↔ ¬ illegal ∧ ¬ early ∧ ¬ index ∧ ¬ infinite) ∧
    (∀ st, checkRequest op idx d s = some st →
      exec (decodeRequest { op := op, idx := idx, data := d }) s = .next (answered st 0#64 s))

/-- R106 at transaction level: a request its check turns away changes the response port and nothing else. -/
def Obligations.RejectedRequestChangesNothing : Prop :=
  ∀ (r : Request) (s : State) (st : Status), checkRequest r.op r.idx r.data s = some st →
    exec (decodeRequest r) s = .next (answered st 0#64 s)

/-- R105: before INIT, every request with a legal code other than INIT is rejected with NOT_INIT, accessors included. -/
def Obligations.RequestsBeforeInitAreRejected : Prop :=
  ∀ (r : Request) (s : State), s.init = false → 2 ≤ r.op.toNat → r.op.toNat ≤ 12 →
    exec (decodeRequest r) s = .next (answered .notInit 0#64 s)

/-- R96, R88, R103: an index of 2 or 3 is rejected with BAD_INDEX by every indexed operation; an infinity or NaN with a legal
index is rejected with BAD_VALUE, nothing cached and no frame emitted. -/
def Obligations.BadOperandsAreRejected : Prop :=
  (∀ (i : BitVec 2) (d : Data) (s : State), s.init = true → i = 2#2 ∨ i = 3#2 →
    let t := answered .badIndex 0#64 s
    exec (.setFreq i d) s = .next t ∧ exec (.setPhase i d) s = .next t ∧
    exec (.setFreqOut i) s = .next t ∧ exec (.setPhaseOut i) s = .next t ∧
    exec (.getFreq i) s = .next t ∧ exec (.getPhase i) s = .next t) ∧
  (∀ (i : BitVec 2) (d : Data) (s : State), s.init = true → i = 0#2 ∨ i = 1#2 → d.extractLsb' 52 11 = 0x7FF#11 →
    exec (.setFreq i d) s = .next (answered .badValue 0#64 s))

/-- R51, R104: a reserved code is answered with ILLEGAL_OP in every state, and changes nothing else. -/
def Obligations.ReservedCodesAnswerIllegalOp : Prop :=
  ∀ s : State,
    let t := answered .illegalOp 0#64 s
    exec .reserved0 s = .next t ∧ exec .reservedD s = .next t ∧ exec .reservedE s = .next t ∧ exec .reservedF s = .next t

/-- R104: a request that passes its check runs and is answered OK. -/
def Obligations.CheckedRequestAnswersOk : Prop :=
  ∀ (r : Request) (s : State), checkRequest r.op r.idx r.data s = none →
    ∃ (t : State) (d : Data), exec (decodeRequest r) s = .next t ∧ t.resp = some { status := .ok, data := d }

/-! ### SetBit, INIT and POWER -/

/-- R12: `SetBit(w, p, b)` is `w` with bit `p` replaced by `b`. -/
def Obligations.SetBitReplacesOneBit : Prop :=
  ∀ (w : Word) (p : Nat) (b : Bool) (j : Nat), p < 16 →
    (setBit w p b).getLsbD j = if j = p then b else w.getLsbD j

/-- R72, R74: INIT, from any state, whatever it held: the state it leaves and the events it appends, under any legal
parameters; and its encoding. -/
def Obligations.InitBootsFromAnyState : Prop :=
  (∀ s : State, s.cfg.Wf →
    let c := s.cfg
    let boot : Word := (1#16 <<< c.posB28.val) ||| (1#16 <<< c.posSleep12.val)
    let off : Word := boot ||| (1#16 <<< c.posSleep1.val)
    exec .init s = .next { s with
      cmd := off, freq0 := 0#64, freq1 := 0#64, phase0 := 0#12, phase1 := 0#12, fsel := false, psel := false, mode := 0#8,
      init := true, selOe := true, selN := true, resp := some { status := .ok, data := 0#64 },
      trace := s.trace ++ [.selEnable, .frame ((1#16 <<< c.posReset.val) ||| (1#16 <<< c.posSleep12.val)),
        .frame boot, .frame c.freqTag0, .frame c.freqTag0, .frame boot, .frame c.freqTag1, .frame c.freqTag1,
        .frame c.phaseTag0, .frame c.phaseTag1, .frame boot, .frame boot, .frame off] } ∧
    (c.posB28 = 13 → c.posSleep1 = 7 → c.posSleep12 = 6 → off = 0x20C0#16)) ∧
  (∀ (idx : BitVec 2) (d : Data), decodeRequest { op := 0x1#4, idx := idx, data := d } = .init)

/-- R73's table: with the default positions and tags, whatever `F_MCLK` and the waits are, INIT appends `SelEnable` and these
12 words in this order. -/
def Obligations.InitTraceWithDefaultLayout : Prop :=
  ∀ s t : State,
    s.cfg.posB28 = 13 → s.cfg.posReset = 8 → s.cfg.posSleep1 = 7 → s.cfg.posSleep12 = 6 → s.cfg.posMode = 1 →
    s.cfg.posOpbiten = 5 → s.cfg.posDiv2 = 3 → s.cfg.posFsel = 11 → s.cfg.posPsel = 10 →
    s.cfg.freqTag0 = 0x4000#16 → s.cfg.freqTag1 = 0x8000#16 → s.cfg.phaseTag0 = 0xC000#16 → s.cfg.phaseTag1 = 0xE000#16 →
    exec .init s = .next t →
    t.cmd = 0x20C0#16 ∧
    t.trace = s.trace ++ .selEnable ::
      [0x0140#16, 0x2040#16, 0x4000#16, 0x4000#16, 0x2040#16, 0x8000#16, 0x8000#16, 0xC000#16, 0xE000#16, 0x2040#16,
       0x2040#16, 0x20C0#16].map Event.frame

/-- R76: POWER, whole: encoding, effect, rejection. -/
def Obligations.PowerWritesBothSleepBits : Prop :=
  (∀ (s : State) (d : Data), s.init = true →
    let b := decide (d = 0#64)
    let w := setBit (setBit s.cmd s.cfg.posSleep1.val b) s.cfg.posSleep12.val b
    exec (.power d) s = .next (answered .ok 0#64 (emitted [w] { s with cmd := w }))) ∧
  (∀ (s : State) (d : Data), s.init = false → exec (.power d) s = .next (answered .notInit 0#64 s)) ∧
  (∀ (idx : BitVec 2) (d : Data), decodeRequest { op := 0x2#4, idx := idx, data := d } = .power d)

/-! ### SET_MODE -/

/-- R78, R81: SET_MODE with a code other than OFF: the bits of the mode, the cached code and one frame of the mirror; before
INIT, NOT_INIT; and its encoding. -/
def Obligations.SetModeWritesItsPattern : Prop :=
  (∀ (s : State) (d : Data), s.init = true → d.extractLsb' 0 8 ≠ 0#8 →
    let c := s.cfg
    let m := d.extractLsb' 0 8
    let w :=
      if m = 2#8 then setBit (setBit (setBit s.cmd c.posOpbiten.val true) c.posDiv2.val true) c.posMode.val false
      else if m = 1#8 then setBit (setBit s.cmd c.posMode.val true) c.posOpbiten.val false
      else if m = 3#8 then setBit (setBit s.cmd c.posOpbiten.val false) c.posMode.val false
      else s.cmd
    exec (.setMode d) s = .next (answered .ok 0#64 (emitted [w] { s with cmd := w, mode := m }))) ∧
  (∀ (s : State) (d : Data), s.init = false → exec (.setMode d) s = .next (answered .notInit 0#64 s)) ∧
  (∀ (idx : BitVec 2) (d : Data), decodeRequest { op := 0x3#4, idx := idx, data := d } = .setMode d)

/-- R80: SET_MODE(OFF). Under the default policy both sleep bits are set and the waveform bits kept; under DRAW the same but
for the three waveform bits, of which nothing is said, and the count of draws moves on (the model's own, log 7). The operation's code carries any `idx`. -/
def Obligations.SetModeOffUnderBothPolicies : Prop :=
  (∀ (s : State) (d : Data), s.init = true → d.extractLsb' 0 8 = 0#8 →
    let w := setBit (setBit s.cmd s.cfg.posSleep1.val true) s.cfg.posSleep12.val true
    (s.cfg.offPolicy = .unchanged →
      exec (.setMode d) s = .next (answered .ok 0#64 (emitted [w] { s with cmd := w, mode := 0#8 }))) ∧
    (s.cfg.offPolicy = .draw → ∃ a b e : Bool,
      let v := setBit (setBit (setBit w s.cfg.posMode.val a) s.cfg.posOpbiten.val b) s.cfg.posDiv2.val e
      exec (.setMode d) s =
        .next (answered .ok 0#64 (emitted [v] { s with cmd := v, mode := 0#8, draws := s.draws + 3 })))) ∧
  (∀ (idx : BitVec 2) (d : Data), decodeRequest { op := 0x3#4, idx := idx, data := d } = .setMode d)

/-- R79's table, field by field, for every mode code and both policies. -/
def Obligations.ModeTableFieldByField : Prop :=
  ∀ (s t : State) (d : Data), s.cfg.Wf → s.init = true → exec (.setMode d) s = .next t →
    let m := d.extractLsb' 0 8
    let keep := fun f => t.field f = s.field f
    (m = 2#8 → t.field .opbiten = true ∧ t.field .div2 = true ∧ t.field .mode = false ∧ keep .sleep1 ∧ keep .sleep12) ∧
    (m = 1#8 → t.field .opbiten = false ∧ keep .div2 ∧ t.field .mode = true ∧ keep .sleep1 ∧ keep .sleep12) ∧
    (m = 3#8 → t.field .opbiten = false ∧ keep .div2 ∧ t.field .mode = false ∧ keep .sleep1 ∧ keep .sleep12) ∧
    (m = 0#8 → t.field .sleep1 = true ∧ t.field .sleep12 = true ∧
      (s.cfg.offPolicy = .unchanged → keep .opbiten ∧ keep .div2 ∧ keep .mode)) ∧
    (4 ≤ m.toNat → ∀ f, keep f) ∧
    keep .b28 ∧ keep .fsel ∧ keep .psel ∧ keep .reset

/-! ### The scaler, the splitter and SET_FREQ -/

/-- R83: the machine's integer form is the exact rational formula, for every finite pattern and every legal `F_MCLK`. -/
def Obligations.ScaleIsExactRounding : Prop :=
  ∀ (c : Config) (f : Data), c.Wf → isFinite f = true → scale c f = scaleSpec c f

/-- R85: the boundary values the document gives, and the top of the meaningful range. -/
def Obligations.ScaleBoundaryValues : Prop :=
  ∀ (c : Config) (f : Data), c.Wf → isFinite f = true →
    (value f = 0 → scale c f = 0#28) ∧
    (value f = fMclk c / 2 ^ 28 → scale c f = 1#28) ∧
    (value f = fMclk c → scale c f = 0#28) ∧
    (value f = fMclk c / 2 → scale c f = 0x8000000#28) ∧
    (0 ≤ value f → value f ≤ fMclk c / 2 → (scale c f).toNat ≤ 2 ^ 27)

/-- R84 (b), (c), (e): the result depends on the value alone; adding whole multiples of `F_MCLK` to a non-negative frequency
does not change it; and a tie goes away from zero. -/
def Obligations.ScaleArithmeticLaws : Prop :=
  ∀ (c : Config) (f g : Data), c.Wf → isFinite f = true → isFinite g = true →
    (value f = value g → scale c f = scale c g) ∧
    (∀ k : Nat, 0 ≤ value f → value g = value f + k * fMclk c → scale c g = scale c f) ∧
    (∀ n : Nat, value f * 2 ^ 28 / fMclk c = n + 1 / 2 → scale c f = BitVec.ofInt 28 (n + 1)) ∧
    (∀ n : Nat, value f * 2 ^ 28 / fMclk c = -(n + 1 / 2) → scale c f = BitVec.ofInt 28 (-(n + 1)))

/-- R86, R55, R10: the two words bit by bit, for legal tags. -/
def Obligations.SplitPlacesTuningBits : Prop :=
  ∀ (c : Config) (i : Bank) (tw : Tuning), c.Wf →
    (split c i tw).1 = (c.freqTag i).extractLsb' 14 2 ++ tw.extractLsb' 2 14 ∧
    (split c i tw).2 = (c.freqTag i).extractLsb' 14 2 ++ (0b00#2 ++ tw.extractLsb' 16 12)

/-- R86: the two words carry `TW[27:2]` and nothing else: `TW[1:0]` is carried by neither. -/
def Obligations.SplitCarriesAllButTwoBits : Prop :=
  ∀ (c : Config) (i : Bank) (a b : Tuning), c.Wf →
    (split c i a = split c i b ↔ a.extractLsb' 2 26 = b.extractLsb' 2 26)

/-- R91: a chip that formed its register as `{hi[13:0], lo[13:0]}` would hold the tuning word only when it is 0. -/
def Obligations.NaturalAssemblyIsTuningOnlyAtZero : Prop :=
  ∀ (c : Config) (i : Bank) (tw : Tuning), c.Wf →
    ((split c i tw).2.extractLsb' 0 14 ++ (split c i tw).1.extractLsb' 0 14 = tw ↔ tw = 0#28)

/-- R87: SET_FREQ, whole: the pattern cached verbatim, B28 forced, and command word, low and high transfer in this order; its
three rejections in their priority; and its encoding. -/
def Obligations.SetFreqEmitsThreeFrames : Prop :=
  (∀ (s : State) (i : BitVec 2) (d : Data), s.init = true → i = 0#2 ∨ i = 1#2 → isFinite d = true →
    let b := if i = 0#2 then Bank.b0 else Bank.b1
    let w := setBit s.cmd s.cfg.posB28.val true
    let t32 := (scale s.cfg d).zeroExtend 32
    let lo : Word := s.cfg.freqTag b ||| ((t32 >>> 2) &&& 0x3FFF#32).setWidth 16
    let hi : Word := s.cfg.freqTag b ||| ((t32 >>> 16) &&& 0x3FFF#32).setWidth 16
    exec (.setFreq i d) s = .next (answered .ok 0#64 (emitted [w, lo, hi]
      { s with cmd := w, freq0 := if i = 0#2 then d else s.freq0, freq1 := if i = 1#2 then d else s.freq1 }))) ∧
  (∀ (s : State) (i : BitVec 2) (d : Data), s.init = false → exec (.setFreq i d) s = .next (answered .notInit 0#64 s)) ∧
  (∀ (s : State) (i : BitVec 2) (d : Data), s.init = true → 1 < i.toNat →
    exec (.setFreq i d) s = .next (answered .badIndex 0#64 s)) ∧
  (∀ (s : State) (i : BitVec 2) (d : Data), s.init = true → i.toNat ≤ 1 → isFinite d = false →
    exec (.setFreq i d) s = .next (answered .badValue 0#64 s)) ∧
  (∀ (i : BitVec 2) (d : Data), decodeRequest { op := 0x4#4, idx := i, data := d } = .setFreq i d)

/-- R90: after an accepted SET_FREQ, GET_FREQ of the same register returns the caller's pattern, bit for bit. -/
def Obligations.FrequencyReadsBackVerbatim : Prop :=
  ∀ (s t : State) (i : BitVec 2) (d : Data), s.init = true → i = 0#2 ∨ i = 1#2 → isFinite d = true →
    exec (.setFreq i d) s = .next t → exec (.getFreq i) t = .next (answered .ok d t)

/-! ### SET_PHASE and the output selects -/

/-- R92: SET_PHASE, whole: the low 12 bits cached and sent in one tagged word, the mirror untouched; rejection; encoding. -/
def Obligations.SetPhaseCachesAndSends : Prop :=
  (∀ (s : State) (i : BitVec 2) (d : Data), s.init = true → i = 0#2 ∨ i = 1#2 →
    let b := if i = 0#2 then Bank.b0 else Bank.b1
    let p := d.extractLsb' 0 12
    exec (.setPhase i d) s = .next (answered .ok 0#64 (emitted [s.cfg.phaseTag b ||| p.zeroExtend 16]
      { s with phase0 := if i = 0#2 then p else s.phase0, phase1 := if i = 1#2 then p else s.phase1 }))) ∧
  (∀ (s : State) (i : BitVec 2) (d : Data), s.init = false → exec (.setPhase i d) s = .next (answered .notInit 0#64 s)) ∧
  (∀ (s : State) (i : BitVec 2) (d : Data), s.init = true → 1 < i.toNat →
    exec (.setPhase i d) s = .next (answered .badIndex 0#64 s)) ∧
  (∀ (i : BitVec 2) (d : Data), decodeRequest { op := 0x5#4, idx := i, data := d } = .setPhase i d)

/-- R93: `get_phase` after `set_phase` returns the operand for 0..4095, and its low 12 bits above. -/
def Obligations.PhaseReadsBackTruncated : Prop :=
  ∀ (s t : State) (i : BitVec 2) (d : Data), s.init = true → i = 0#2 ∨ i = 1#2 → exec (.setPhase i d) s = .next t →
    exec (.getPhase i) t = .next (answered .ok (BitVec.ofNat 64 (d.toNat % 4096)) t)

/-- R94: SET_FREQ_OUT, whole. -/
def Obligations.SetFreqOutWritesSelect : Prop :=
  (∀ (s : State) (i : BitVec 2), s.init = true → i = 0#2 ∨ i = 1#2 →
    let b := decide (i = 1#2)
    let w := setBit s.cmd s.cfg.posFsel.val b
    exec (.setFreqOut i) s = .next (answered .ok 0#64 (emitted [w] { s with cmd := w, fsel := b }))) ∧
  (∀ (s : State) (i : BitVec 2), s.init = false → exec (.setFreqOut i) s = .next (answered .notInit 0#64 s)) ∧
  (∀ (s : State) (i : BitVec 2), s.init = true → 1 < i.toNat → exec (.setFreqOut i) s = .next (answered .badIndex 0#64 s)) ∧
  (∀ (i : BitVec 2) (d : Data), decodeRequest { op := 0x6#4, idx := i, data := d } = .setFreqOut i)

/-- R95: SET_PHASE_OUT, whole. -/
def Obligations.SetPhaseOutWritesSelect : Prop :=
  (∀ (s : State) (i : BitVec 2), s.init = true → i = 0#2 ∨ i = 1#2 →
    let b := decide (i = 1#2)
    let w := setBit s.cmd s.cfg.posPsel.val b
    exec (.setPhaseOut i) s = .next (answered .ok 0#64 (emitted [w] { s with cmd := w, psel := b }))) ∧
  (∀ (s : State) (i : BitVec 2), s.init = false → exec (.setPhaseOut i) s = .next (answered .notInit 0#64 s)) ∧
  (∀ (s : State) (i : BitVec 2), s.init = true → 1 < i.toNat → exec (.setPhaseOut i) s = .next (answered .badIndex 0#64 s)) ∧
  (∀ (i : BitVec 2) (d : Data), decodeRequest { op := 0x7#4, idx := i, data := d } = .setPhaseOut i)

/-! ### Accessors -/

/-- R97 to R101: each accessor answers OK with its cached value and changes nothing else; before INIT it answers NOT_INIT;
and the codes of the three that take no operand ignore `idx` and `D`. -/
def Obligations.AccessorsAnswerCachedState : Prop :=
  (∀ (s : State) (i : BitVec 2), s.init = true → i = 0#2 ∨ i = 1#2 →
    exec (.getFreq i) s = .next (answered .ok (if i = 0#2 then s.freq0 else s.freq1) s) ∧
    exec (.getPhase i) s = .next (answered .ok ((if i = 0#2 then s.phase0 else s.phase1).zeroExtend 64) s) ∧
    exec .getFreqOut s = .next (answered .ok (if s.fsel then 1#64 else 0#64) s) ∧
    exec .getPhaseOut s = .next (answered .ok (if s.psel then 1#64 else 0#64) s) ∧
    exec .getMode s = .next (answered .ok (s.mode.zeroExtend 64) s)) ∧
  (∀ (s : State) (i : BitVec 2), s.init = false →
    let t := answered .notInit 0#64 s
    exec (.getFreq i) s = .next t ∧ exec (.getPhase i) s = .next t ∧ exec .getFreqOut s = .next t ∧
    exec .getPhaseOut s = .next t ∧ exec .getMode s = .next t) ∧
  (∀ (i : BitVec 2) (d : Data),
    decodeRequest { op := 0x8#4, idx := i, data := d } = .getFreq i ∧
    decodeRequest { op := 0x9#4, idx := i, data := d } = .getPhase i ∧
    decodeRequest { op := 0xA#4, idx := i, data := d } = .getFreqOut ∧
    decodeRequest { op := 0xB#4, idx := i, data := d } = .getPhaseOut ∧
    decodeRequest { op := 0xC#4, idx := i, data := d } = .getMode)

/-- R106, R110, R46 at cycle level: a rejected request and an accessor are answered in the cycle after acceptance, which the
model takes to be the cycle that begins at the accepting edge (the model's choice, DEDUCED, log 11), with what `exec` answers, no frame, no change of `sel_n` and no other write; the response lasts one cycle, and the next is IDLE. -/
def Obligations.ShortRequestsAnswerInNextCycle : Prop :=
  (∀ (p : Pins) (s : State) (st : Status), p.rst = false → p.reqValid = true → s.seq = .idle →
    checkRequest p.req.op p.req.idx p.req.data s = some st →
    clockEdge p s = { answered st 0#64 s with seq := .busy (some .responding) [] }) ∧
  (∀ (p : Pins) (s : State), p.rst = false → p.reqValid = true → s.seq = .idle → 8 ≤ p.req.op.toNat → p.req.op.toNat ≤ 12 →
    ∃ (st : Status) (d : Data),
      exec (decodeRequest p.req) s = .next (answered st d s) ∧
      clockEdge p s = { answered st d s with seq := .busy (some .responding) [] }) ∧
  (∀ (p : Pins) (s : State), p.rst = false → s.seq = .busy (some .responding) [] →
    clockEdge p s = { s with seq := .idle, resp := none })

/-! ### Wire words -/

/-- R62 with R54 to R57: executing a wire word appends its frame, leaves `sel_n` at 1 and changes nothing else. -/
def Obligations.WireWordsAppendTheirFrame : Prop :=
  ∀ (s : State) (w : Word) (l : BitVec 14) (h p : BitVec 12),
    let c := s.cfg
    exec (.cmd w) s = .next (emitted [w] s) ∧
    exec .resetw s = .next (emitted [(1#16 <<< c.posReset.val) ||| (1#16 <<< c.posSleep12.val)] s) ∧
    exec (.freqLo0 l) s = .next (emitted [c.freqTag0 ||| l.zeroExtend 16] s) ∧
    exec (.freqHi0 h) s = .next (emitted [c.freqTag0 ||| h.zeroExtend 16] s) ∧
    exec (.freqLo1 l) s = .next (emitted [c.freqTag1 ||| l.zeroExtend 16] s) ∧
    exec (.freqHi1 h) s = .next (emitted [c.freqTag1 ||| h.zeroExtend 16] s) ∧
    exec (.phase0 p) s = .next (emitted [c.phaseTag0 ||| p.zeroExtend 16] s) ∧
    exec (.phase1 p) s = .next (emitted [c.phaseTag1 ||| p.zeroExtend 16] s)

/-- R82, R129: how many frames an accepted request appends. -/
def Obligations.FrameCountPerOperation : Prop :=
  ∀ (r : Request) (s t : State), checkRequest r.op r.idx r.data s = none → exec (decodeRequest r) s = .next t →
    (newFrames s t).length =
      if r.op.toNat = 1 then 12 else if r.op.toNat = 4 then 3 else if 8 ≤ r.op.toNat then 0 else 1

/-! ### The mirror -/

/-- R19: after every request that emits a command word, the mirror equals the last command word emitted. A command word is one
the address map of R33 sends to the command register. -/
def Obligations.MirrorIsLastCommandWord : Prop :=
  ∀ (r : Request) (s t : State), s.cfg.Wf → s.cfg.reservedClear s.cmd = true → exec (decodeRequest r) s = .next t →
    let cmds := (newFrames s t).filter (fun w => decide (wireTarget s.cfg w = some .command))
    cmds ≠ [] → cmds.getLast? = some t.cmd

/-- R20, R75: a command word with RESET = 1 is emitted by INIT alone, and it is the reset word, INIT's first frame. -/
def Obligations.OnlyInitSendsReset : Prop :=
  ∀ (r : Request) (s t : State), s.cfg.Wf → s.field .reset = false → exec (decodeRequest r) s = .next t →
    (∀ w ∈ newFrames s t, wireTarget s.cfg w = some .command → w.getLsbD s.cfg.posReset.val = true →
      decodeRequest r = .init ∧ w = resetWord s.cfg) ∧
    t.field .reset = false

/-- R18, R16: which bits of the mirror each instruction may change; every other bit keeps its value. -/
def Obligations.MirrorBitsKeptByEachSetter : Prop :=
  ∀ (s t : State) (i : Instr) (j : Nat), exec i s = .next t →
    let c := s.cfg
    let kept := t.cmd.getLsbD j = s.cmd.getLsbD j
    (∀ d, i = .power d → j ≠ c.posSleep1.val → j ≠ c.posSleep12.val → kept) ∧
    (∀ d, i = .setMode d → j ≠ c.posOpbiten.val → j ≠ c.posDiv2.val → j ≠ c.posMode.val → j ≠ c.posSleep1.val →
      j ≠ c.posSleep12.val → kept) ∧
    (∀ k d, i = .setFreq k d → j ≠ c.posB28.val → kept) ∧
    (∀ k, i = .setFreqOut k → j ≠ c.posFsel.val → kept) ∧
    (∀ k, i = .setPhaseOut k → j ≠ c.posPsel.val → kept) ∧
    (i ≠ .init → (∀ d, i ≠ .power d) → (∀ d, i ≠ .setMode d) → (∀ k d, i ≠ .setFreq k d) → (∀ k, i ≠ .setFreqOut k) →
      (∀ k, i ≠ .setPhaseOut k) → kept)

/-! ### Who writes what -/

/-- R15, R16, R21, R22, R25, R27, R28: for every instruction and every state, which instruction a changed field admits; the
sequencer, the parameters and the inputs are never changed. -/
def Obligations.EachFieldHasItsWriters : Prop :=
  ∀ (i : Instr) (s t : State), exec i s = .next t →
    (t.freq0 ≠ s.freq0 → i = .init ∨ ∃ d, i = .setFreq 0#2 d) ∧
    (t.freq1 ≠ s.freq1 → i = .init ∨ ∃ d, i = .setFreq 1#2 d) ∧
    (t.phase0 ≠ s.phase0 → i = .init ∨ ∃ d, i = .setPhase 0#2 d) ∧
    (t.phase1 ≠ s.phase1 → i = .init ∨ ∃ d, i = .setPhase 1#2 d) ∧
    (t.fsel ≠ s.fsel → i = .init ∨ ∃ k, i = .setFreqOut k) ∧
    (t.psel ≠ s.psel → i = .init ∨ ∃ k, i = .setPhaseOut k) ∧
    (t.mode ≠ s.mode → i = .init ∨ ∃ d, i = .setMode d) ∧
    (t.init ≠ s.init → i = .init) ∧
    (t.selOe ≠ s.selOe → i = .init) ∧
    (t.draws ≠ s.draws → ∃ d, i = .setMode d) ∧
    t.seq = s.seq ∧ t.cfg = s.cfg ∧ t.inputs = s.inputs

/-- R102, R132: an accessor, a reserved code and a rejected request change the response port only. -/
def Obligations.AccessorsChangeOnlyTheResponse : Prop :=
  ∀ (i : Instr) (s t : State),
    (∃ k, i = .getFreq k ∨ i = .getPhase k) ∨ i = .getFreqOut ∨ i = .getPhaseOut ∨ i = .getMode ∨
      i = .reserved0 ∨ i = .reservedD ∨ i = .reservedE ∨ i = .reservedF →
    exec i s = .next t → t = { s with resp := t.resp }

/-- R27, R28, R105: over the whole machine, only a clock edge with `rst = 1` clears `st.init` or makes the pin undriven. -/
def Obligations.OnlyResetClearsInitAndPin : Prop :=
  ∀ s t : State, step s = .next t → (∀ p rest, s.inputs = .clock p :: rest → p.rst = false) →
    (s.init = true → t.init = true) ∧ (s.selOe = true → t.selOe = true)

/-! ### The invariant -/

/-- R10, R24, R17, R20: the machine after reset meets the invariant. Its parameters are `Config.board` (log 1, log 2). -/
def Obligations.ResetMeetsInvariant : Prop :=
  Inv State.reset

/-- R17, R20, R24, R67, R71, R77, R89: every step keeps the invariant, at both levels. -/
def Obligations.EveryStepKeepsInvariant : Prop :=
  ∀ s t : State, Inv s → step s = .next t → Inv t

/-! ### The cycle level -/

/-- R8: the cycle level realises the transaction level. While a request is in progress a clock edge changes nothing of the
state it stands for; accepting a request is the instruction's one atomic step; an idle edge changes nothing; a reset edge
gives the reset state. -/
def Obligations.ClockEdgesRefineTransactions : Prop :=
  ∀ (p : Pins) (s : State),
    (p.rst = false → s.seq ≠ .idle → settled (clockEdge p s) = settled s) ∧
    (p.rst = false → s.seq = .idle → p.reqValid = false → settled (clockEdge p s) = settled s) ∧
    (p.rst = false → s.seq = .idle → p.reqValid = true →
      ∃ t, exec (decodeRequest p.req) { s with resp := none } = .next t ∧ settled (clockEdge p s) = { t with resp := none }) ∧
    (p.rst = true → settled (clockEdge p s) = blockReset s)

/-- R110, R123, R114: with any transport that answers each byte after some finite delay, and no reset, whatever is in progress
completes, whatever stands on the request port meanwhile, and leaves exactly the state it stood for; until then the block is
busy. -/
def Obligations.AcceptedRequestCompletes : Prop :=
  ∀ (edges : Nat → Pins) (s : State), (∀ n, (edges n).rst = false) → AnswersEveryByte edges s → s.seq ≠ .idle →
    ∃ n, { runEdges edges s n with resp := none } = settled s ∧ (runEdges edges s n).seq = .idle ∧
      ∀ m, m < n → (runEdges edges s m).seq ≠ .idle

/-- R46, R110, R114: a request accepted at edge 0, under any transport that answers each byte after some finite delay and
without reset, is answered in exactly one cycle with exactly what `exec` answers, and the block is then in exactly the state
`exec` leaves; before that cycle the block is busy and `resp_valid` is 0; when frames are emitted, that cycle is the one after
the last frame's F_GAP (R110); when none is and the pin is not enabled either, it is the cycle after acceptance, which the
model takes to be the cycle that begins at the accepting edge (the model's choice, DEDUCED, log 11). -/
def Obligations.AcceptedRequestAnswersAsExec : Prop :=
  ∀ (edges : Nat → Pins) (s t : State), (∀ n, (edges n).rst = false) → AnswersEveryByte edges s →
    s.seq = .idle → (edges 0).reqValid = true →
    exec (decodeRequest (edges 0).req) { s with resp := none } = .next t →
    ∃ n, runEdges edges s (n + 1) = { t with seq := .busy (some .responding) [] } ∧
      runEdges edges s (n + 2) = { t with resp := none } ∧
      t.resp ≠ none ∧
      (∀ m, m < n → (runEdges edges s (m + 1)).respValid = false ∧ (runEdges edges s (m + 1)).seq ≠ .idle) ∧
      (newFrames s t ≠ [] → (runEdges edges s n).trace = t.trace ∧ ∃ k q, (runEdges edges s n).seq = .busy (some (.gap k)) q) ∧
      (t.trace = s.trace → n = 0)

/-- R46, R47, R123, R128: while a request is in progress the request port is not ready and not looked at. -/
def Obligations.BusyBlockIgnoresRequestPort : Prop :=
  ∀ (p p' : Pins) (s : State), s.seq ≠ .idle → p.rst = p'.rst → p.txDone = p'.txDone →
    (∀ rst, s.reqReady rst = false) ∧ clockEdge p s = clockEdge p' s

/-- R63, R64: every edge at which `sel_n` falls enters F_SETUP(0) for the word of the frame that is next; from there `tx_start`
stays 0 for `N_SU` cycles and comes in the cycle after. -/
def Obligations.SetupTimeIsKept : Prop :=
  (∀ (p : Pins) (s : State), p.rst = false → s.selN = true → (clockEdge p s).selN = false →
    ∃ w q, nextFrame (linesAt p s) s = some (w, q) ∧ (clockEdge p s).seq = .busy (some (.setup w 0)) q) ∧
  (∀ (ps : List Pins) (s : State) (w : Word) (q : List Micro), s.cfg.Wf → (∀ p ∈ ps, p.rst = false) →
    s.seq = .busy (some (.setup w 0)) q →
    (ps.length < s.cfg.nSu → (clockEdges ps s).seq = .busy (some (.setup w ps.length)) q ∧
      (clockEdges ps s).txStart = false ∧ (clockEdges ps s).selN = s.selN) ∧
    (ps.length = s.cfg.nSu → (clockEdges ps s).seq = .busy (some (.hi w true)) q ∧ (clockEdges ps s).txStart = true))

/-- R65: two `tx_start` pulses, the first with the high byte, the second with the low byte, in the cycle after the first
byte's `tx_done`; the byte is held until then. After the second the hold begins; a mirror write the request places inside the
hold (R72, 90_conflicts.md C4) is then no longer to be performed. -/
def Obligations.TwoBytesAreStarted : Prop :=
  ∀ (ps : List Pins) (p : Pins) (s : State) (w : Word) (q : List Micro),
    (∀ x ∈ ps, x.rst = false ∧ x.txDone = false) → p.rst = false → p.txDone = true →
    let t := clockEdges ps s
    (s.seq = .busy (some (.hi w true)) q → s.txStart = true ∧ t.txStart = ps.isEmpty ∧ t.txByte = some (w.extractLsb' 8 8) ∧
      (clockEdge p t).seq = .busy (some (.lo w true)) q ∧ (clockEdge p t).txStart = true) ∧
    (s.seq = .busy (some (.lo w true)) q → s.txStart = true ∧ t.txStart = ps.isEmpty ∧ t.txByte = some (w.extractLsb' 0 8) ∧
      (∃ q', (clockEdge p t).seq = .busy (some (.hold w 0)) q' ∧ (q' = q ∨ ∃ f b, q = .holdSetBit f b :: q')) ∧
      (clockEdge p t).txStart = false)

/-- R66, R72: the second byte's `tx_done` begins the hold, in whose first cycle (the model's choice of cycle, log 10) the mirror
write stands that the request places inside it (90_conflicts.md C4); nothing else changes. From there select stays as it is for
`N_H` cycles; then it rises and the frame's event is in the trace. -/
def Obligations.HoldTimeIsKept : Prop :=
  (∀ (p : Pins) (s : State) (w : Word) (first : Bool) (q : List Micro), p.rst = false → p.txDone = true →
    s.seq = .busy (some (.lo w first)) q →
    (∀ f b rest, q = .holdSetBit f b :: rest → clockEdge p s =
      { s with cmd := setBit s.cmd (s.cfg.pos f).val b, seq := .busy (some (.hold w 0)) rest }) ∧
    ((∀ f b rest, q ≠ .holdSetBit f b :: rest) → clockEdge p s = { s with seq := .busy (some (.hold w 0)) q })) ∧
  (∀ (ps : List Pins) (s : State) (w : Word) (q : List Micro), s.cfg.Wf → (∀ p ∈ ps, p.rst = false) →
    s.seq = .busy (some (.hold w 0)) q →
    (ps.length < s.cfg.nH → clockEdges ps s = { s with seq := .busy (some (.hold w ps.length)) q }) ∧
    (ps.length = s.cfg.nH → clockEdges ps s =
      { s with seq := .busy (some (.gap 0)) q, selN := true, trace := s.trace ++ [.frame w] }))

/-- R68, R69, R70, R125, R72: the gap and INIT's wait last at least their cycle counts, with no output changed. The wait is
entered from the cycle of `SelEnable`; so an accepted INIT enables the pin in the next cycle and keeps `N_INIT` cycles after it
in which no frame begins, and then begins the reset word's frame, whose hold is to set SLEEP12 in the mirror (90_conflicts.md
C4). -/
def Obligations.GapAndWaitAreKept : Prop :=
  (∀ (p : Pins) (s : State) (q : List Micro), p.rst = false → s.seq = .busy (some .selEnable) (.waitInit :: q) →
    clockEdge p s = { s with seq := .busy (some (.wait 0)) q }) ∧
  (∀ (p : Pins) (ps : List Pins) (s : State), s.cfg.Wf → p.rst = false → (∀ x ∈ ps, x.rst = false) → s.seq = .idle →
    p.reqValid = true → p.req.op = 0x1#4 →
    let t := clockEdge p s
    t.selOe = true ∧ (∃ q, t.seq = .busy (some .selEnable) (.waitInit :: q)) ∧
    (ps.length ≤ s.cfg.nInit → (clockEdges ps t).selN = t.selN ∧ (clockEdges ps t).trace = t.trace ∧
      ∃ ph q, (clockEdges ps t).seq = .busy (some ph) q ∧ (ph = .selEnable ∨ ∃ k, ph = .wait k)) ∧
    (ps.length = s.cfg.nInit + 1 → (clockEdges ps t).selN = false ∧
      ∃ q, (clockEdges ps t).seq =
        .busy (some (.setup ((1#16 <<< s.cfg.posReset.val) ||| (1#16 <<< s.cfg.posSleep12.val)) 0))
          (.holdSetBit .sleep12 true :: q))) ∧
  (∀ (ps : List Pins) (s : State) (q : List Micro), (∀ p ∈ ps, p.rst = false) →
    (s.seq = .busy (some (.gap 0)) q → ps.length < s.cfg.nGap →
      clockEdges ps s = { s with seq := .busy (some (.gap ps.length)) q }) ∧
    (s.seq = .busy (some (.wait 0)) q → ps.length < s.cfg.nInit →
      clockEdges ps s = { s with seq := .busy (some (.wait ps.length)) q }))

/-- R10, R125: in a legal configuration the cycle counts are at least the source's bounds. -/
def Obligations.WaitCountsMeetSourceBounds : Prop :=
  ∀ c : Config, c.Wf →
    let fClk : ℚ := (c.fClkNum : ℚ) / c.fClkDen
    ⌈(5 / 1000000 : ℚ) * fClk⌉ ≤ (c.nSu : ℤ) ∧ ⌈(5 / 1000000 : ℚ) * fClk⌉ ≤ (c.nH : ℤ) ∧
    ⌈(10 / 1000000 : ℚ) * fClk⌉ ≤ (c.nInit : ℤ) ∧ 1 ≤ c.nGap ∧ 1 ≤ c.nSu ∧ 1 ≤ c.nH

/-- R129: no frame is shorter than `N_SU + 2 + N_H + N_GAP` cycles from the fall of select (where SetupTimeIsKept says it stands
in F_SETUP(0)), whatever the transport does: until then the same frame, or the gap after it, is in progress, and no line after
it but a mirror write placed inside its hold has been taken. -/
def Obligations.NoFrameIsShorter : Prop :=
  ∀ (ps : List Pins) (s : State) (w : Word) (q : List Micro), s.cfg.Wf → (∀ p ∈ ps, p.rst = false) →
    s.seq = .busy (some (.setup w 0)) q → ps.length < s.cfg.nSu + 2 + s.cfg.nH + s.cfg.nGap →
    ∃ ph q', (clockEdges ps s).seq = .busy (some ph) q' ∧ (q' = q ∨ ∃ f b, q = .holdSetBit f b :: q') ∧
      (ph.frameWord = some w ∨ ∃ n, ph = .gap n)

/-- R65: `tx_done` outside F_HI and F_LO changes nothing. -/
def Obligations.StrayTxDoneIsIgnored : Prop :=
  ∀ (p p' : Pins) (s : State), p.rst = p'.rst → p.reqValid = p'.reqValid → p.req = p'.req → s.txByte = none →
    clockEdge p s = clockEdge p' s

/-- R126: without `tx_done` and without reset the block stays busy in the same byte, answers nothing and emits nothing. -/
def Obligations.SilentTransportStalls : Prop :=
  ∀ (ps : List Pins) (s : State) (w : Word) (b : Bool) (q : List Micro), (∀ x ∈ ps, x.rst = false ∧ x.txDone = false) →
    (s.seq = .busy (some (.hi w b)) q →
      clockEdges ps s = { s with seq := .busy (some (.hi w (b && ps.isEmpty))) q }) ∧
    (s.seq = .busy (some (.lo w b)) q →
      clockEdges ps s = { s with seq := .busy (some (.lo w (b && ps.isEmpty))) q })

/-! ### Assembler -/

/-- R59: the pseudo-forms are the numbered forms, with the requests these are, and a few more lines give their requests. -/
def Obligations.AssemblerPseudoForms : Prop :=
  assemble "power on" = assemble "power 1" ∧ assemble "power off" = assemble "power 0" ∧
  assemble "set_mode off" = assemble "set_mode 0" ∧ assemble "set_mode triangle" = assemble "set_mode 1" ∧
  assemble "set_mode square" = assemble "set_mode 2" ∧ assemble "set_mode sine" = assemble "set_mode 3" ∧
  assemble "power 1" = .ok { op := 0x2#4, idx := 0#2, data := 1#64 } ∧
  assemble "power 0" = .ok { op := 0x2#4, idx := 0#2, data := 0#64 } ∧
  assemble "set_mode 0" = .ok { op := 0x3#4, idx := 0#2, data := 0#64 } ∧
  assemble "set_mode 1" = .ok { op := 0x3#4, idx := 0#2, data := 1#64 } ∧
  assemble "set_mode 2" = .ok { op := 0x3#4, idx := 0#2, data := 2#64 } ∧
  assemble "set_mode 3" = .ok { op := 0x3#4, idx := 0#2, data := 3#64 } ∧
  assemble "set_phase 0, 4096" = .ok { op := 0x5#4, idx := 0#2, data := 0x1000#64 } ∧
  assemble "set_freq_out 2" = .ok { op := 0x6#4, idx := 2#2, data := 0#64 } ∧
  assemble "set_freq_out 4" = .error .doesNotFit
end

