-- ==== Sys2Proof/Laws/Config.lean ====
section
/-! SUPPORT. The parameters of the reset machine are legal (00_scope.md R10), whatever the free values are; and what a legal
configuration gives its readers. -/

namespace Sys2Proof

/-- `ceilMicro` is the ceiling: it and anything above it, times the denominator, reaches the numerator. -/
theorem Config.le_ceilMicro_add_mul (k num den more : Nat) (hden : 0 < den) :
    k * num ≤ (Config.ceilMicro k num den + more) * (1000000 * den) := by
  have hd : 0 < 1000000 * den := by omega
  rw [Config.ceilMicro]
  generalize 1000000 * den = D at hd ⊢
  generalize k * num = N
  have h1 := Nat.div_add_mod (N + D - 1) D
  have h2 := Nat.mod_lt (N + D - 1) hd
  have h3 : N ≤ (N + D - 1) / D * D := by
    rw [Nat.mul_comm]
    omega
  exact Nat.le_trans h3 (Nat.mul_le_mul_right D (Nat.le_add_right _ _))

/-- The machine's parameters after reset meet R10. -/
theorem Config.board_wf : Config.board.Wf :=
  ⟨by decide, by decide, by decide, by decide, by decide, by decide, by decide,
    Nat.le_max_left _ _, Nat.le_max_left _ _, Nat.le_max_left _ _, Nat.le_max_left _ _,
    Config.le_ceilMicro_add_mul 5 _ _ _ (Nat.le_max_left _ _),
    Config.le_ceilMicro_add_mul 5 _ _ _ (Nat.le_max_left _ _),
    Config.le_ceilMicro_add_mul 10 _ _ _ (Nat.le_max_left _ _),
    Nat.le_max_left _ _⟩

/-- Two fields of a legal configuration share no position. -/
theorem Config.Wf.pos_inj {c : Config} (h : c.Wf) {f g : CmdField} (hfg : c.pos f = c.pos g) : f = g := by
  have hn := h.1
  simp only [CmdField.all, List.map, List.nodup_cons, List.mem_cons, List.not_mem_nil, not_or] at hn
  cases f <;> cases g <;> first | rfl | (exfalso; simp_all)

theorem Config.Wf.pos_ne {c : Config} (h : c.Wf) {f g : CmdField} (hfg : f ≠ g) : c.pos f ≠ c.pos g :=
  fun e => hfg (h.pos_inj e)

theorem Config.Wf.fMclkNum_pos {c : Config} (h : c.Wf) : 0 < c.fMclkNum := h.2.2.2.2.2.2.2.1

theorem Config.Wf.fMclkDen_pos {c : Config} (h : c.Wf) : 0 < c.fMclkDen := h.2.2.2.2.2.2.2.2.1

theorem Config.Wf.nGap_pos {c : Config} (h : c.Wf) : 1 ≤ c.nGap := h.2.2.2.2.2.2.2.2.2.2.2.2.2.2

theorem Config.Wf.nSu_pos {c : Config} (h : c.Wf) : 1 ≤ c.nSu := by
  obtain ⟨_, _, _, _, _, _, _, _, _, hn, _, h5, _⟩ := h
  rcases Nat.eq_zero_or_pos c.nSu with h0 | h0
  · simp [h0] at h5; omega
  · exact h0

theorem Config.Wf.nH_pos {c : Config} (h : c.Wf) : 1 ≤ c.nH := by
  obtain ⟨_, _, _, _, _, _, _, _, _, hn, _, _, h5, _⟩ := h
  rcases Nat.eq_zero_or_pos c.nH with h0 | h0
  · simp [h0] at h5; omega
  · exact h0

theorem Config.Wf.freqTag {c : Config} (h : c.Wf) (i : Bank) : Config.FreqTagOk (c.freqTag i) := by
  cases i
  · exact h.2.1
  · exact h.2.2.1

theorem Config.Wf.phaseTag {c : Config} (h : c.Wf) (i : Bank) : Config.PhaseTagOk (c.phaseTag i) := by
  cases i
  · exact h.2.2.2.2.1
  · exact h.2.2.2.2.2.1

theorem Config.Wf.freqTag_ne {c : Config} (h : c.Wf) : c.freqTag0 ≠ c.freqTag1 := h.2.2.2.1

theorem Config.Wf.phaseTag_ne {c : Config} (h : c.Wf) : c.phaseTag0 ≠ c.phaseTag1 := h.2.2.2.2.2.2.1

end Sys2Proof
end

