-- ==== Sys2Proof/Laws/State.lean ====
section
/-! SUPPORT. One lemma per field of the state per update, true by `rfl`: no later proof unfolds a record update. -/

namespace Sys2Proof.Machine

@[simp] theorem emitFrame_cmd (w : Word) (s : State) : (emitFrame w s).cmd = s.cmd := rfl
@[simp] theorem emitFrame_freq0 (w : Word) (s : State) : (emitFrame w s).freq0 = s.freq0 := rfl
@[simp] theorem emitFrame_freq1 (w : Word) (s : State) : (emitFrame w s).freq1 = s.freq1 := rfl
@[simp] theorem emitFrame_phase0 (w : Word) (s : State) : (emitFrame w s).phase0 = s.phase0 := rfl
@[simp] theorem emitFrame_phase1 (w : Word) (s : State) : (emitFrame w s).phase1 = s.phase1 := rfl
@[simp] theorem emitFrame_fsel (w : Word) (s : State) : (emitFrame w s).fsel = s.fsel := rfl
@[simp] theorem emitFrame_psel (w : Word) (s : State) : (emitFrame w s).psel = s.psel := rfl
@[simp] theorem emitFrame_mode (w : Word) (s : State) : (emitFrame w s).mode = s.mode := rfl
@[simp] theorem emitFrame_init (w : Word) (s : State) : (emitFrame w s).init = s.init := rfl
@[simp] theorem emitFrame_selOe (w : Word) (s : State) : (emitFrame w s).selOe = s.selOe := rfl
@[simp] theorem emitFrame_selN (w : Word) (s : State) : (emitFrame w s).selN = true := rfl
@[simp] theorem emitFrame_seq (w : Word) (s : State) : (emitFrame w s).seq = s.seq := rfl
@[simp] theorem emitFrame_resp (w : Word) (s : State) : (emitFrame w s).resp = s.resp := rfl
@[simp] theorem emitFrame_cfg (w : Word) (s : State) : (emitFrame w s).cfg = s.cfg := rfl
@[simp] theorem emitFrame_trace (w : Word) (s : State) : (emitFrame w s).trace = s.trace ++ [.frame w] := rfl
@[simp] theorem emitFrame_inputs (w : Word) (s : State) : (emitFrame w s).inputs = s.inputs := rfl
@[simp] theorem emitFrame_draws (w : Word) (s : State) : (emitFrame w s).draws = s.draws := rfl

@[simp] theorem selEnable_cmd (s : State) : (selEnable s).cmd = s.cmd := rfl
@[simp] theorem selEnable_freq0 (s : State) : (selEnable s).freq0 = s.freq0 := rfl
@[simp] theorem selEnable_freq1 (s : State) : (selEnable s).freq1 = s.freq1 := rfl
@[simp] theorem selEnable_phase0 (s : State) : (selEnable s).phase0 = s.phase0 := rfl
@[simp] theorem selEnable_phase1 (s : State) : (selEnable s).phase1 = s.phase1 := rfl
@[simp] theorem selEnable_fsel (s : State) : (selEnable s).fsel = s.fsel := rfl
@[simp] theorem selEnable_psel (s : State) : (selEnable s).psel = s.psel := rfl
@[simp] theorem selEnable_mode (s : State) : (selEnable s).mode = s.mode := rfl
@[simp] theorem selEnable_init (s : State) : (selEnable s).init = s.init := rfl
@[simp] theorem selEnable_selOe (s : State) : (selEnable s).selOe = true := rfl
@[simp] theorem selEnable_selN (s : State) : (selEnable s).selN = (if s.selOe then s.selN else true) := rfl
@[simp] theorem selEnable_seq (s : State) : (selEnable s).seq = s.seq := rfl
@[simp] theorem selEnable_resp (s : State) : (selEnable s).resp = s.resp := rfl
@[simp] theorem selEnable_cfg (s : State) : (selEnable s).cfg = s.cfg := rfl
@[simp] theorem selEnable_trace (s : State) : (selEnable s).trace = s.trace ++ [.selEnable] := rfl
@[simp] theorem selEnable_inputs (s : State) : (selEnable s).inputs = s.inputs := rfl
@[simp] theorem selEnable_draws (s : State) : (selEnable s).draws = s.draws := rfl

@[simp] theorem answered_cmd (st : Status) (d : Data) (s : State) : (answered st d s).cmd = s.cmd := rfl
@[simp] theorem answered_freq0 (st : Status) (d : Data) (s : State) : (answered st d s).freq0 = s.freq0 := rfl
@[simp] theorem answered_freq1 (st : Status) (d : Data) (s : State) : (answered st d s).freq1 = s.freq1 := rfl
@[simp] theorem answered_phase0 (st : Status) (d : Data) (s : State) : (answered st d s).phase0 = s.phase0 := rfl
@[simp] theorem answered_phase1 (st : Status) (d : Data) (s : State) : (answered st d s).phase1 = s.phase1 := rfl
@[simp] theorem answered_fsel (st : Status) (d : Data) (s : State) : (answered st d s).fsel = s.fsel := rfl
@[simp] theorem answered_psel (st : Status) (d : Data) (s : State) : (answered st d s).psel = s.psel := rfl
@[simp] theorem answered_mode (st : Status) (d : Data) (s : State) : (answered st d s).mode = s.mode := rfl
@[simp] theorem answered_init (st : Status) (d : Data) (s : State) : (answered st d s).init = s.init := rfl
@[simp] theorem answered_selOe (st : Status) (d : Data) (s : State) : (answered st d s).selOe = s.selOe := rfl
@[simp] theorem answered_selN (st : Status) (d : Data) (s : State) : (answered st d s).selN = s.selN := rfl
@[simp] theorem answered_seq (st : Status) (d : Data) (s : State) : (answered st d s).seq = s.seq := rfl
@[simp] theorem answered_resp (st : Status) (d : Data) (s : State) : (answered st d s).resp = some { status := st, data := d } := rfl
@[simp] theorem answered_cfg (st : Status) (d : Data) (s : State) : (answered st d s).cfg = s.cfg := rfl
@[simp] theorem answered_trace (st : Status) (d : Data) (s : State) : (answered st d s).trace = s.trace := rfl
@[simp] theorem answered_inputs (st : Status) (d : Data) (s : State) : (answered st d s).inputs = s.inputs := rfl
@[simp] theorem answered_draws (st : Status) (d : Data) (s : State) : (answered st d s).draws = s.draws := rfl

@[simp] theorem emitted_cmd (ws : List Word) (s : State) : (emitted ws s).cmd = s.cmd := rfl
@[simp] theorem emitted_freq0 (ws : List Word) (s : State) : (emitted ws s).freq0 = s.freq0 := rfl
@[simp] theorem emitted_freq1 (ws : List Word) (s : State) : (emitted ws s).freq1 = s.freq1 := rfl
@[simp] theorem emitted_phase0 (ws : List Word) (s : State) : (emitted ws s).phase0 = s.phase0 := rfl
@[simp] theorem emitted_phase1 (ws : List Word) (s : State) : (emitted ws s).phase1 = s.phase1 := rfl
@[simp] theorem emitted_fsel (ws : List Word) (s : State) : (emitted ws s).fsel = s.fsel := rfl
@[simp] theorem emitted_psel (ws : List Word) (s : State) : (emitted ws s).psel = s.psel := rfl
@[simp] theorem emitted_mode (ws : List Word) (s : State) : (emitted ws s).mode = s.mode := rfl
@[simp] theorem emitted_init (ws : List Word) (s : State) : (emitted ws s).init = s.init := rfl
@[simp] theorem emitted_selOe (ws : List Word) (s : State) : (emitted ws s).selOe = s.selOe := rfl
@[simp] theorem emitted_selN (ws : List Word) (s : State) : (emitted ws s).selN = true := rfl
@[simp] theorem emitted_seq (ws : List Word) (s : State) : (emitted ws s).seq = s.seq := rfl
@[simp] theorem emitted_resp (ws : List Word) (s : State) : (emitted ws s).resp = s.resp := rfl
@[simp] theorem emitted_cfg (ws : List Word) (s : State) : (emitted ws s).cfg = s.cfg := rfl
@[simp] theorem emitted_trace (ws : List Word) (s : State) : (emitted ws s).trace = s.trace ++ ws.map Event.frame := rfl
@[simp] theorem emitted_inputs (ws : List Word) (s : State) : (emitted ws s).inputs = s.inputs := rfl
@[simp] theorem emitted_draws (ws : List Word) (s : State) : (emitted ws s).draws = s.draws := rfl

@[simp] theorem blockReset_cmd (s : State) : (blockReset s).cmd = State.reset.cmd := rfl
@[simp] theorem blockReset_freq0 (s : State) : (blockReset s).freq0 = State.reset.freq0 := rfl
@[simp] theorem blockReset_freq1 (s : State) : (blockReset s).freq1 = State.reset.freq1 := rfl
@[simp] theorem blockReset_phase0 (s : State) : (blockReset s).phase0 = State.reset.phase0 := rfl
@[simp] theorem blockReset_phase1 (s : State) : (blockReset s).phase1 = State.reset.phase1 := rfl
@[simp] theorem blockReset_fsel (s : State) : (blockReset s).fsel = State.reset.fsel := rfl
@[simp] theorem blockReset_psel (s : State) : (blockReset s).psel = State.reset.psel := rfl
@[simp] theorem blockReset_mode (s : State) : (blockReset s).mode = State.reset.mode := rfl
@[simp] theorem blockReset_init (s : State) : (blockReset s).init = State.reset.init := rfl
@[simp] theorem blockReset_selOe (s : State) : (blockReset s).selOe = State.reset.selOe := rfl
@[simp] theorem blockReset_selN (s : State) : (blockReset s).selN = State.reset.selN := rfl
@[simp] theorem blockReset_seq (s : State) : (blockReset s).seq = State.reset.seq := rfl
@[simp] theorem blockReset_resp (s : State) : (blockReset s).resp = State.reset.resp := rfl
@[simp] theorem blockReset_cfg (s : State) : (blockReset s).cfg = s.cfg := rfl
@[simp] theorem blockReset_trace (s : State) : (blockReset s).trace = s.trace := rfl
@[simp] theorem blockReset_inputs (s : State) : (blockReset s).inputs = s.inputs := rfl
@[simp] theorem blockReset_draws (s : State) : (blockReset s).draws = s.draws := rfl

@[simp] theorem writeFreq_b0_cmd (f : Data) (s : State) : (writeFreq .b0 f s).cmd = s.cmd := rfl
@[simp] theorem writeFreq_b0_freq0 (f : Data) (s : State) : (writeFreq .b0 f s).freq0 = f := rfl
@[simp] theorem writeFreq_b0_freq1 (f : Data) (s : State) : (writeFreq .b0 f s).freq1 = s.freq1 := rfl
@[simp] theorem writeFreq_b0_phase0 (f : Data) (s : State) : (writeFreq .b0 f s).phase0 = s.phase0 := rfl
@[simp] theorem writeFreq_b0_phase1 (f : Data) (s : State) : (writeFreq .b0 f s).phase1 = s.phase1 := rfl
@[simp] theorem writeFreq_b0_fsel (f : Data) (s : State) : (writeFreq .b0 f s).fsel = s.fsel := rfl
@[simp] theorem writeFreq_b0_psel (f : Data) (s : State) : (writeFreq .b0 f s).psel = s.psel := rfl
@[simp] theorem writeFreq_b0_mode (f : Data) (s : State) : (writeFreq .b0 f s).mode = s.mode := rfl
@[simp] theorem writeFreq_b0_init (f : Data) (s : State) : (writeFreq .b0 f s).init = s.init := rfl
@[simp] theorem writeFreq_b0_selOe (f : Data) (s : State) : (writeFreq .b0 f s).selOe = s.selOe := rfl
@[simp] theorem writeFreq_b0_selN (f : Data) (s : State) : (writeFreq .b0 f s).selN = s.selN := rfl
@[simp] theorem writeFreq_b0_seq (f : Data) (s : State) : (writeFreq .b0 f s).seq = s.seq := rfl
@[simp] theorem writeFreq_b0_resp (f : Data) (s : State) : (writeFreq .b0 f s).resp = s.resp := rfl
@[simp] theorem writeFreq_b0_cfg (f : Data) (s : State) : (writeFreq .b0 f s).cfg = s.cfg := rfl
@[simp] theorem writeFreq_b0_trace (f : Data) (s : State) : (writeFreq .b0 f s).trace = s.trace := rfl
@[simp] theorem writeFreq_b0_inputs (f : Data) (s : State) : (writeFreq .b0 f s).inputs = s.inputs := rfl
@[simp] theorem writeFreq_b0_draws (f : Data) (s : State) : (writeFreq .b0 f s).draws = s.draws := rfl

@[simp] theorem writeFreq_b1_cmd (f : Data) (s : State) : (writeFreq .b1 f s).cmd = s.cmd := rfl
@[simp] theorem writeFreq_b1_freq0 (f : Data) (s : State) : (writeFreq .b1 f s).freq0 = s.freq0 := rfl
@[simp] theorem writeFreq_b1_freq1 (f : Data) (s : State) : (writeFreq .b1 f s).freq1 = f := rfl
@[simp] theorem writeFreq_b1_phase0 (f : Data) (s : State) : (writeFreq .b1 f s).phase0 = s.phase0 := rfl
@[simp] theorem writeFreq_b1_phase1 (f : Data) (s : State) : (writeFreq .b1 f s).phase1 = s.phase1 := rfl
@[simp] theorem writeFreq_b1_fsel (f : Data) (s : State) : (writeFreq .b1 f s).fsel = s.fsel := rfl
@[simp] theorem writeFreq_b1_psel (f : Data) (s : State) : (writeFreq .b1 f s).psel = s.psel := rfl
@[simp] theorem writeFreq_b1_mode (f : Data) (s : State) : (writeFreq .b1 f s).mode = s.mode := rfl
@[simp] theorem writeFreq_b1_init (f : Data) (s : State) : (writeFreq .b1 f s).init = s.init := rfl
@[simp] theorem writeFreq_b1_selOe (f : Data) (s : State) : (writeFreq .b1 f s).selOe = s.selOe := rfl
@[simp] theorem writeFreq_b1_selN (f : Data) (s : State) : (writeFreq .b1 f s).selN = s.selN := rfl
@[simp] theorem writeFreq_b1_seq (f : Data) (s : State) : (writeFreq .b1 f s).seq = s.seq := rfl
@[simp] theorem writeFreq_b1_resp (f : Data) (s : State) : (writeFreq .b1 f s).resp = s.resp := rfl
@[simp] theorem writeFreq_b1_cfg (f : Data) (s : State) : (writeFreq .b1 f s).cfg = s.cfg := rfl
@[simp] theorem writeFreq_b1_trace (f : Data) (s : State) : (writeFreq .b1 f s).trace = s.trace := rfl
@[simp] theorem writeFreq_b1_inputs (f : Data) (s : State) : (writeFreq .b1 f s).inputs = s.inputs := rfl
@[simp] theorem writeFreq_b1_draws (f : Data) (s : State) : (writeFreq .b1 f s).draws = s.draws := rfl

@[simp] theorem writePhase_b0_cmd (p : PhaseVal) (s : State) : (writePhase .b0 p s).cmd = s.cmd := rfl
@[simp] theorem writePhase_b0_freq0 (p : PhaseVal) (s : State) : (writePhase .b0 p s).freq0 = s.freq0 := rfl
@[simp] theorem writePhase_b0_freq1 (p : PhaseVal) (s : State) : (writePhase .b0 p s).freq1 = s.freq1 := rfl
@[simp] theorem writePhase_b0_phase0 (p : PhaseVal) (s : State) : (writePhase .b0 p s).phase0 = p := rfl
@[simp] theorem writePhase_b0_phase1 (p : PhaseVal) (s : State) : (writePhase .b0 p s).phase1 = s.phase1 := rfl
@[simp] theorem writePhase_b0_fsel (p : PhaseVal) (s : State) : (writePhase .b0 p s).fsel = s.fsel := rfl
@[simp] theorem writePhase_b0_psel (p : PhaseVal) (s : State) : (writePhase .b0 p s).psel = s.psel := rfl
@[simp] theorem writePhase_b0_mode (p : PhaseVal) (s : State) : (writePhase .b0 p s).mode = s.mode := rfl
@[simp] theorem writePhase_b0_init (p : PhaseVal) (s : State) : (writePhase .b0 p s).init = s.init := rfl
@[simp] theorem writePhase_b0_selOe (p : PhaseVal) (s : State) : (writePhase .b0 p s).selOe = s.selOe := rfl
@[simp] theorem writePhase_b0_selN (p : PhaseVal) (s : State) : (writePhase .b0 p s).selN = s.selN := rfl
@[simp] theorem writePhase_b0_seq (p : PhaseVal) (s : State) : (writePhase .b0 p s).seq = s.seq := rfl
@[simp] theorem writePhase_b0_resp (p : PhaseVal) (s : State) : (writePhase .b0 p s).resp = s.resp := rfl
@[simp] theorem writePhase_b0_cfg (p : PhaseVal) (s : State) : (writePhase .b0 p s).cfg = s.cfg := rfl
@[simp] theorem writePhase_b0_trace (p : PhaseVal) (s : State) : (writePhase .b0 p s).trace = s.trace := rfl
@[simp] theorem writePhase_b0_inputs (p : PhaseVal) (s : State) : (writePhase .b0 p s).inputs = s.inputs := rfl
@[simp] theorem writePhase_b0_draws (p : PhaseVal) (s : State) : (writePhase .b0 p s).draws = s.draws := rfl

@[simp] theorem writePhase_b1_cmd (p : PhaseVal) (s : State) : (writePhase .b1 p s).cmd = s.cmd := rfl
@[simp] theorem writePhase_b1_freq0 (p : PhaseVal) (s : State) : (writePhase .b1 p s).freq0 = s.freq0 := rfl
@[simp] theorem writePhase_b1_freq1 (p : PhaseVal) (s : State) : (writePhase .b1 p s).freq1 = s.freq1 := rfl
@[simp] theorem writePhase_b1_phase0 (p : PhaseVal) (s : State) : (writePhase .b1 p s).phase0 = s.phase0 := rfl
@[simp] theorem writePhase_b1_phase1 (p : PhaseVal) (s : State) : (writePhase .b1 p s).phase1 = p := rfl
@[simp] theorem writePhase_b1_fsel (p : PhaseVal) (s : State) : (writePhase .b1 p s).fsel = s.fsel := rfl
@[simp] theorem writePhase_b1_psel (p : PhaseVal) (s : State) : (writePhase .b1 p s).psel = s.psel := rfl
@[simp] theorem writePhase_b1_mode (p : PhaseVal) (s : State) : (writePhase .b1 p s).mode = s.mode := rfl
@[simp] theorem writePhase_b1_init (p : PhaseVal) (s : State) : (writePhase .b1 p s).init = s.init := rfl
@[simp] theorem writePhase_b1_selOe (p : PhaseVal) (s : State) : (writePhase .b1 p s).selOe = s.selOe := rfl
@[simp] theorem writePhase_b1_selN (p : PhaseVal) (s : State) : (writePhase .b1 p s).selN = s.selN := rfl
@[simp] theorem writePhase_b1_seq (p : PhaseVal) (s : State) : (writePhase .b1 p s).seq = s.seq := rfl
@[simp] theorem writePhase_b1_resp (p : PhaseVal) (s : State) : (writePhase .b1 p s).resp = s.resp := rfl
@[simp] theorem writePhase_b1_cfg (p : PhaseVal) (s : State) : (writePhase .b1 p s).cfg = s.cfg := rfl
@[simp] theorem writePhase_b1_trace (p : PhaseVal) (s : State) : (writePhase .b1 p s).trace = s.trace := rfl
@[simp] theorem writePhase_b1_inputs (p : PhaseVal) (s : State) : (writePhase .b1 p s).inputs = s.inputs := rfl
@[simp] theorem writePhase_b1_draws (p : PhaseVal) (s : State) : (writePhase .b1 p s).draws = s.draws := rfl

@[simp] theorem writeFreq_cmd (i : Bank) (f : Data) (s : State) : (writeFreq i f s).cmd = s.cmd := by cases i <;> rfl
@[simp] theorem writeFreq_phase0 (i : Bank) (f : Data) (s : State) : (writeFreq i f s).phase0 = s.phase0 := by cases i <;> rfl
@[simp] theorem writeFreq_phase1 (i : Bank) (f : Data) (s : State) : (writeFreq i f s).phase1 = s.phase1 := by cases i <;> rfl
@[simp] theorem writeFreq_fsel (i : Bank) (f : Data) (s : State) : (writeFreq i f s).fsel = s.fsel := by cases i <;> rfl
@[simp] theorem writeFreq_psel (i : Bank) (f : Data) (s : State) : (writeFreq i f s).psel = s.psel := by cases i <;> rfl
@[simp] theorem writeFreq_mode (i : Bank) (f : Data) (s : State) : (writeFreq i f s).mode = s.mode := by cases i <;> rfl
@[simp] theorem writeFreq_init (i : Bank) (f : Data) (s : State) : (writeFreq i f s).init = s.init := by cases i <;> rfl
@[simp] theorem writeFreq_selOe (i : Bank) (f : Data) (s : State) : (writeFreq i f s).selOe = s.selOe := by cases i <;> rfl
@[simp] theorem writeFreq_selN (i : Bank) (f : Data) (s : State) : (writeFreq i f s).selN = s.selN := by cases i <;> rfl
@[simp] theorem writeFreq_seq (i : Bank) (f : Data) (s : State) : (writeFreq i f s).seq = s.seq := by cases i <;> rfl
@[simp] theorem writeFreq_resp (i : Bank) (f : Data) (s : State) : (writeFreq i f s).resp = s.resp := by cases i <;> rfl
@[simp] theorem writeFreq_cfg (i : Bank) (f : Data) (s : State) : (writeFreq i f s).cfg = s.cfg := by cases i <;> rfl
@[simp] theorem writeFreq_trace (i : Bank) (f : Data) (s : State) : (writeFreq i f s).trace = s.trace := by cases i <;> rfl
@[simp] theorem writeFreq_inputs (i : Bank) (f : Data) (s : State) : (writeFreq i f s).inputs = s.inputs := by cases i <;> rfl
@[simp] theorem writeFreq_draws (i : Bank) (f : Data) (s : State) : (writeFreq i f s).draws = s.draws := by cases i <;> rfl

@[simp] theorem writePhase_cmd (i : Bank) (f : PhaseVal) (s : State) : (writePhase i f s).cmd = s.cmd := by cases i <;> rfl
@[simp] theorem writePhase_freq0 (i : Bank) (f : PhaseVal) (s : State) : (writePhase i f s).freq0 = s.freq0 := by cases i <;> rfl
@[simp] theorem writePhase_freq1 (i : Bank) (f : PhaseVal) (s : State) : (writePhase i f s).freq1 = s.freq1 := by cases i <;> rfl
@[simp] theorem writePhase_fsel (i : Bank) (f : PhaseVal) (s : State) : (writePhase i f s).fsel = s.fsel := by cases i <;> rfl
@[simp] theorem writePhase_psel (i : Bank) (f : PhaseVal) (s : State) : (writePhase i f s).psel = s.psel := by cases i <;> rfl
@[simp] theorem writePhase_mode (i : Bank) (f : PhaseVal) (s : State) : (writePhase i f s).mode = s.mode := by cases i <;> rfl
@[simp] theorem writePhase_init (i : Bank) (f : PhaseVal) (s : State) : (writePhase i f s).init = s.init := by cases i <;> rfl
@[simp] theorem writePhase_selOe (i : Bank) (f : PhaseVal) (s : State) : (writePhase i f s).selOe = s.selOe := by cases i <;> rfl
@[simp] theorem writePhase_selN (i : Bank) (f : PhaseVal) (s : State) : (writePhase i f s).selN = s.selN := by cases i <;> rfl
@[simp] theorem writePhase_seq (i : Bank) (f : PhaseVal) (s : State) : (writePhase i f s).seq = s.seq := by cases i <;> rfl
@[simp] theorem writePhase_resp (i : Bank) (f : PhaseVal) (s : State) : (writePhase i f s).resp = s.resp := by cases i <;> rfl
@[simp] theorem writePhase_cfg (i : Bank) (f : PhaseVal) (s : State) : (writePhase i f s).cfg = s.cfg := by cases i <;> rfl
@[simp] theorem writePhase_trace (i : Bank) (f : PhaseVal) (s : State) : (writePhase i f s).trace = s.trace := by cases i <;> rfl
@[simp] theorem writePhase_inputs (i : Bank) (f : PhaseVal) (s : State) : (writePhase i f s).inputs = s.inputs := by cases i <;> rfl
@[simp] theorem writePhase_draws (i : Bank) (f : PhaseVal) (s : State) : (writePhase i f s).draws = s.draws := by cases i <;> rfl

end Sys2Proof.Machine
end

