-- ==== Sys2Proof/Laws/Ops.lean ====
section
/-! SUPPORT. What the shared operations do, said once: `SetBit` bit by bit, one line of pseudocode, the lines of a request,
the acceptance check, and an instruction as its lines performed in order. -/

namespace Sys2Proof.Machine

/-! ### SetBit -/

theorem setBit_getLsbD (w : Word) (p : Nat) (b : Bool) (j : Nat) (hp : p < 16) :
    (setBit w p b).getLsbD j = if j = p then b else w.getLsbD j := by
  rcases Nat.lt_trichotomy j p with h | h | h
  · have h2 : j ≠ p := by omega
    cases b <;> simp [setBit, h, h2, show j < 16 by omega]
  · subst h
    cases b <;> simp [setBit, hp]
  · have h2 : j ≠ p := by omega
    have h3 : j - p ≠ 0 := by omega
    have h4 : ¬ j < p := by omega
    by_cases hj : j < 16
    · cases b <;> simp [setBit, h2, h3, h4, hj]
    · have h5 : w.getLsbD j = false := BitVec.getLsbD_of_ge w j (by omega)
      have h6 : (setBit w p b).getLsbD j = false := BitVec.getLsbD_of_ge _ j (by omega)
      simp [h2, h5, h6]

@[simp] theorem setBit_field (w : Word) (p : Fin 14) (b : Bool) (j : Fin 14) :
    (setBit w p.val b).getLsbD j.val = if j = p then b else w.getLsbD j.val := by
  rw [setBit_getLsbD w p.val b j.val (by omega)]
  simp [Fin.ext_iff]

/-! ### One line, and the lines of a request -/

@[simp] theorem applyMicro_cfg (op : Micro) (s : State) : (applyMicro op s).cfg = s.cfg := by
  cases op <;> simp [applyMicro]

@[simp] theorem applyMicro_inputs (op : Micro) (s : State) : (applyMicro op s).inputs = s.inputs := by
  cases op <;> simp [applyMicro]

@[simp] theorem applyMicro_seq (op : Micro) (s : State) : (applyMicro op s).seq = s.seq := by
  cases op <;> simp [applyMicro]

@[simp] theorem perform_nil (s : State) : perform [] s = s := rfl

@[simp] theorem perform_cons (op : Micro) (q : List Micro) (s : State) :
    perform (op :: q) s = perform q (applyMicro op s) := rfl

theorem perform_append (p q : List Micro) (s : State) : perform (p ++ q) s = perform q (perform p s) := by
  induction p generalizing s with
  | nil => rfl
  | cons op p ih => exact ih _

@[simp] theorem perform_cfg (q : List Micro) (s : State) : (perform q s).cfg = s.cfg := by
  induction q generalizing s with
  | nil => rfl
  | cons op q ih => simp [ih]

@[simp] theorem perform_inputs (q : List Micro) (s : State) : (perform q s).inputs = s.inputs := by
  induction q generalizing s with
  | nil => rfl
  | cons op q ih => simp [ih]

@[simp] theorem perform_seq (q : List Micro) (s : State) : (perform q s).seq = s.seq := by
  induction q generalizing s with
  | nil => rfl
  | cons op q ih => simp [ih]

/-- One line appends at most one event. -/
theorem applyMicro_trace (op : Micro) (s : State) :
    ∃ ev : List Event, (applyMicro op s).trace = s.trace ++ ev := by
  cases op with
  | selEnable => exact ⟨[.selEnable], rfl⟩
  | emitCmd => exact ⟨[.frame s.cmd], rfl⟩
  | emit _ w => exact ⟨[.frame w], rfl⟩
  | _ => exact ⟨[], by simp [applyMicro]⟩

/-- The lines of a request only append to the trace. -/
theorem perform_trace (q : List Micro) (s : State) :
    ∃ ev : List Event, (perform q s).trace = s.trace ++ ev := by
  induction q generalizing s with
  | nil => exact ⟨[], by simp⟩
  | cons op q ih =>
    obtain ⟨e₁, h₁⟩ := applyMicro_trace op s
    obtain ⟨e₂, h₂⟩ := ih (applyMicro op s)
    exact ⟨e₁ ++ e₂, by simp [h₂, h₁]⟩

@[simp] theorem applyMicro_setSeq (op : Micro) (s : State) (x : Seq) :
    applyMicro op { s with seq := x } = { applyMicro op s with seq := x } := by
  cases op with
  | setFreq i f => cases i <;> rfl
  | setPhase i p => cases i <;> rfl
  | _ => rfl

/-- Performing lines and setting the sequencer commute: the lines do not look at it. -/
theorem perform_setSeq (q : List Micro) (s : State) (x : Seq) :
    perform q { s with seq := x } = { perform q s with seq := x } := by
  induction q generalizing s with
  | nil => rfl
  | cons op q ih =>
    rw [perform_cons, applyMicro_setSeq, ih, perform_cons]

/-- Lines that begin with a line performed in another response state differ in the response at most. -/
theorem applyMicro_setResp (op : Micro) (s : State) (x : Option Response) :
    ∃ y, applyMicro op { s with resp := x } = { applyMicro op s with resp := y } := by
  cases op with
  | setFreq i f => cases i <;> exact ⟨x, rfl⟩
  | setPhase i p => cases i <;> exact ⟨x, rfl⟩
  | respond st d => exact ⟨some { status := st, data := d }, rfl⟩
  | _ => exact ⟨x, rfl⟩

/-- Performing lines does not look at the response port. -/
theorem perform_setResp (q : List Micro) (s : State) (x : Option Response) :
    ∃ y, perform q { s with resp := x } = { perform q s with resp := y } := by
  induction q generalizing s x with
  | nil => exact ⟨x, rfl⟩
  | cons op q ih =>
    obtain ⟨y, hy⟩ := applyMicro_setResp op s x
    obtain ⟨z, hz⟩ := ih (applyMicro op s) y
    exact ⟨z, by rw [perform_cons, hy, hz, perform_cons]⟩

/-! ### The acceptance check -/

/-- A request that does not pass its check has one line, the rejection. -/
theorem serve_of_check {op : BitVec 4} {idx : BitVec 2} {d : Data} {body : List Micro} {s : State} {st : Status}
    (h : checkRequest op idx d s = some st) : serve op idx d body s = reject st := by
  simp [serve, h]

/-- A request that passes its check has its own lines. -/
theorem serve_of_pass {op : BitVec 4} {idx : BitVec 2} {d : Data} {body : List Micro} {s : State}
    (h : checkRequest op idx d s = none) : serve op idx d body s = body := by
  simp [serve, h]

/-- Either way, the lines are the rejection's or the body's. -/
theorem serve_cases (op : BitVec 4) (idx : BitVec 2) (d : Data) (body : List Micro) (s : State) :
    (∃ st, serve op idx d body s = reject st) ∨ serve op idx d body s = body := by
  cases h : checkRequest op idx d s with
  | some st => exact .inl ⟨st, serve_of_check h⟩
  | none => exact .inr (serve_of_pass h)

/-- A rejection changes the response port and nothing else. -/
@[simp] theorem perform_reject (st : Status) (s : State) : perform (reject st) s = answered st 0#64 s := rfl

/-! ### An instruction is its lines, performed in order -/

theorem exec_eq_plan (i : Instr) (s : State) : exec i s = .next (perform (plan i s) s) := by
  cases i <;> rfl

/-- Inversion: what `exec` answers. -/
theorem exec_next {i : Instr} {s t : State} (h : exec i s = .next t) : t = perform (plan i s) s := by
  rw [exec_eq_plan] at h
  injection h with h
  exact h.symm

/-! ### Frames -/

theorem emitFrame_eq_emitted (w : Word) (s : State) : emitFrame w s = emitted [w] s := rfl

@[simp] theorem emitted_emitted (ws vs : List Word) (s : State) :
    emitted vs (emitted ws s) = emitted (ws ++ vs) s := by
  simp [emitted]

@[simp] theorem framesOf_append (a b : List Event) : framesOf (a ++ b) = framesOf a ++ framesOf b := by
  simp [framesOf]

@[simp] theorem framesOf_frames (ws : List Word) : framesOf (ws.map Event.frame) = ws := by
  induction ws with
  | nil => rfl
  | cons w ws ih => simp [framesOf]

end Sys2Proof.Machine
end

