-- ==== Sys2Proof/Laws/Cycle.lean ====
section
/-! SUPPORT. What beginning the next event does, said once; and what one clock edge can do. -/

namespace Sys2Proof.Machine

@[simp] theorem advance_cfg (q : List Micro) (s : State) : (advance q s).cfg = s.cfg := by
  induction q generalizing s with
  | nil => rfl
  | cons op q ih => cases op <;> simp [advance, beginFrame, ih]

@[simp] theorem advance_inputs (q : List Micro) (s : State) : (advance q s).inputs = s.inputs := by
  induction q generalizing s with
  | nil => rfl
  | cons op q ih => cases op <;> simp [advance, beginFrame, ih]

/-- What beginning the hold does: the mirror write placed inside it, if the next line is one; else nothing but the sequencer
moves. -/
theorem beginHold_cases (w : Word) (q : List Micro) (s : State) :
    (∃ f b rest, q = .holdSetBit f b :: rest ∧
      beginHold w q s = { s with cmd := setBit s.cmd (s.cfg.pos f).val b, seq := .busy (some (.hold w 0)) rest }) ∨
    ((∀ f b rest, q ≠ .holdSetBit f b :: rest) ∧ beginHold w q s = { s with seq := .busy (some (.hold w 0)) q }) := by
  unfold beginHold
  split
  · rename_i f b rest
    exact .inl ⟨f, b, rest, rfl, rfl⟩
  · rename_i h
    exact .inr ⟨fun f b rest e => h f b rest e, rfl⟩

@[simp] theorem beginHold_cfg (w : Word) (q : List Micro) (s : State) : (beginHold w q s).cfg = s.cfg := by
  unfold beginHold
  split <;> rfl

@[simp] theorem beginHold_trace (w : Word) (q : List Micro) (s : State) : (beginHold w q s).trace = s.trace := by
  unfold beginHold
  split <;> rfl

/-- Beginning the hold does not change what the state stands for. -/
theorem settled_beginHold (w : Word) (q : List Micro) (s : State) :
    settled (beginHold w q s) = { perform q (emitFrame w s) with seq := .idle, resp := none } := by
  rcases beginHold_cases w q s with ⟨f, b, rest, rfl, h⟩ | ⟨_, h⟩ <;> rw [h]
  · exact congrArg (fun t : State => { t with seq := .idle, resp := none })
      (perform_setSeq rest (applyMicro (.holdSetBit f b) (emitFrame w s)) (.busy (some (.hold w 0)) rest))
  · exact congrArg (fun t : State => { t with seq := .idle, resp := none })
      (perform_setSeq q (emitFrame w s) (.busy (some (.hold w 0)) q))

/-- `advance` starts the next event but does not change what the state stands for: settling it performs the lines. -/
theorem settled_advance (q : List Micro) (s : State) :
    settled (advance q s) = { perform q s with seq := .idle, resp := none } := by
  induction q generalizing s with
  | nil => rfl
  | cons op q ih =>
    cases op with
    | selEnable =>
      simp only [advance, settled, pending, finishCurrent, finishPhase, perform_cons, applyMicro]
      rw [perform_setSeq]
    | waitInit =>
      simp only [advance, settled, pending, finishCurrent, finishPhase, perform_cons, applyMicro]
      rw [perform_setSeq]
    | emitCmd =>
      simp only [advance, beginFrame, settled, pending, finishCurrent, finishPhase, perform_cons, applyMicro]
      rw [show emitFrame s.cmd { s with selN := false, seq := .busy (some (.setup s.cmd 0)) q } =
        { emitFrame s.cmd s with seq := .busy (some (.setup s.cmd 0)) q } from rfl, perform_setSeq]
    | emit sl w =>
      simp only [advance, beginFrame, settled, pending, finishCurrent, finishPhase, perform_cons, applyMicro]
      rw [show emitFrame w { s with selN := false, seq := .busy (some (.setup w 0)) q } =
        { emitFrame w s with seq := .busy (some (.setup w 0)) q } from rfl, perform_setSeq]
    | respond st d =>
      simp only [advance, settled, pending, finishCurrent, finishPhase, perform_cons, applyMicro]
      obtain ⟨y, hy⟩ := perform_setResp q { s with seq := .busy (some .responding) q } none
      obtain ⟨z, hz⟩ := perform_setResp q s (some { status := st, data := d })
      rw [hy, hz, perform_setSeq]
    | _ => simp only [advance]; rw [ih, perform_cons]

/-- Beginning an event only appends to the trace. -/
theorem advance_trace (q : List Micro) (s : State) : ∃ ev, (advance q s).trace = s.trace ++ ev := by
  induction q generalizing s with
  | nil => exact ⟨[], by simp [advance]⟩
  | cons op q ih =>
    cases op with
    | selEnable => exact ⟨[.selEnable], rfl⟩
    | waitInit => exact ⟨[], by simp [advance]⟩
    | emitCmd => exact ⟨[], by simp [advance, beginFrame]⟩
    | emit _ w => exact ⟨[], by simp [advance, beginFrame]⟩
    | respond _ _ => exact ⟨[], by simp [advance, applyMicro]⟩
    | _ =>
      simp only [advance]
      obtain ⟨ev, h⟩ := ih (applyMicro _ s)
      exact ⟨ev, by rw [h]; simp [applyMicro]⟩

/-- An edge only appends to the trace. -/
theorem clockEdge_trace (p : Pins) (s : State) : ∃ ev, (clockEdge p s).trace = s.trace ++ ev := by
  unfold clockEdge
  split
  · exact ⟨[], by simp⟩
  · split
    · split
      · exact advance_trace _ _
      · exact ⟨[], by simp⟩
    · exact advance_trace _ _
    · rename_i ph q _
      cases ph with
      | hold w n =>
        simp only [nextPhase]
        split
        · exact ⟨[.frame w], rfl⟩
        · exact ⟨[], by simp⟩
      | hi w b => exact ⟨[], by simp [nextPhase]⟩
      | lo w b =>
        simp only [nextPhase]
        split <;> exact ⟨[], by simp⟩
      | selEnable => exact advance_trace _ _
      | responding => exact advance_trace q { s with resp := none }
      | _ =>
        simp only [nextPhase]
        split <;> first | exact advance_trace _ _ | exact ⟨[], by simp⟩

/-- The parameters outlive every edge. -/
@[simp] theorem nextPhase_cfg (d : Bool) (ph : Phase) (q : List Micro) (s : State) : (nextPhase d ph q s).cfg = s.cfg := by
  cases ph <;> simp only [nextPhase] <;> (try split) <;> simp

@[simp] theorem clockEdge_cfg (p : Pins) (s : State) : (clockEdge p s).cfg = s.cfg := by
  unfold clockEdge
  split
  · rfl
  · split
    · split <;> simp [accept]
    · simp
    · simp

theorem clockEdges_cfg (ps : List Pins) (s : State) : (clockEdges ps s).cfg = s.cfg := by
  induction ps generalizing s with
  | nil => rfl
  | cons p ps ih => rw [clockEdges, ih, clockEdge_cfg]

/-- An edge without reset while an event is in progress takes the event one cycle on. -/
theorem clockEdge_busy {p : Pins} {s : State} {ph : Phase} {q : List Micro} (hr : p.rst = false)
    (hs : s.seq = .busy (some ph) q) : clockEdge p s = nextPhase p.txDone ph q s := by
  simp [clockEdge, hr, hs]

theorem clockEdge_between {p : Pins} {s : State} {q : List Micro} (hr : p.rst = false)
    (hs : s.seq = .busy none q) : clockEdge p s = advance q s := by
  simp [clockEdge, hr, hs]

/-- An edge without reset at which no request is offered to an IDLE block only ends a response. -/
theorem clockEdge_idle {p : Pins} {s : State} (hr : p.rst = false) (hv : p.reqValid = false) (hs : s.seq = .idle) :
    clockEdge p s = { s with resp := none } := by
  simp [clockEdge, hr, hv, hs]

/-- An edge without reset at which a request is offered to an IDLE block accepts it. -/
theorem clockEdge_accept {p : Pins} {s : State} (hr : p.rst = false) (hv : p.reqValid = true) (hs : s.seq = .idle) :
    clockEdge p s = accept p.req { s with resp := none } := by
  simp [clockEdge, hr, hv, hs]

theorem clockEdge_reset {p : Pins} (s : State) (hr : p.rst = true) : clockEdge p s = blockReset s := by
  simp [clockEdge, hr]

end Sys2Proof.Machine
end

