-- ==== Sys2Proof/Laws/PerInstr.lean ====
section
/-! SUPPORT. One lemma per instruction: the code of a well-formed instruction, under the reset machine's layout, is one its own
row of opcode_table.json matches. -/

namespace Sys2Proof.Laws.TableRow

/-- The `match` and `mask` columns of an instruction's row in opcode_table.json. -/
def row : Instr → Nat × Nat
  | .init => (0x10, 0xF0)
  | .power _ => (0x20, 0xF0)
  | .setMode _ => (0x30, 0xF0)
  | .setFreq _ _ => (0x40, 0xFC)
  | .setPhase _ _ => (0x50, 0xFC)
  | .setFreqOut _ => (0x60, 0xFC)
  | .setPhaseOut _ => (0x70, 0xFC)
  | .getFreq _ => (0x80, 0xFC)
  | .getPhase _ => (0x90, 0xFC)
  | .getFreqOut => (0xA0, 0xF0)
  | .getPhaseOut => (0xB0, 0xF0)
  | .getMode => (0xC0, 0xF0)
  | .reserved0 => (0x00, 0xF0)
  | .reservedD => (0xD0, 0xF0)
  | .reservedE => (0xE0, 0xF0)
  | .reservedF => (0xF0, 0xF0)
  | .cmd _ => (0x0000, 0xC000)
  | .resetw => (0x0140, 0xFFFF)
  | .freqLo0 _ => (0x4000, 0xC000)
  | .freqHi0 _ => (0x4000, 0xF000)
  | .freqLo1 _ => (0x8000, 0xC000)
  | .freqHi1 _ => (0x8000, 0xF000)
  | .phase0 _ => (0xC000, 0xF000)
  | .phase1 _ => (0xE000, 0xF000)

/-- A code matches a row: its bits under the mask are the row's. -/
def fits (r : Nat × Nat) : Code → Prop
  | .request h _ => h &&& BitVec.ofNat 8 r.2 = BitVec.ofNat 8 r.1
  | .wire _ w => w &&& BitVec.ofNat 16 r.2 = BitVec.ofNat 16 r.1

/-- A well-formed instruction's code matches its row. -/
def Statement (i : Instr) : Prop :=
  i.wellFormed Config.board = true → fits (row i) (encode Config.board i)

/-- The header of an indexed operation under the mask of its row. -/
theorem header_mask (op : BitVec 4) (i : BitVec 2) :
    (op ++ (0b00#2 ++ i)) &&& BitVec.ofNat 8 0xFC = BitVec.ofNat 8 (16 * op.toNat) := by
  revert op i
  decide

/-- A tag with data below it, under a mask of tag bits. -/
theorem tag_mask {n : Nat} (tag mask : Word) (x : BitVec n) (hx : mask &&& x.zeroExtend 16 = 0#16) (ht : tag &&& mask = tag) :
    (tag ||| x.zeroExtend 16) &&& mask = tag := by
  have h : (tag ||| x.zeroExtend 16) &&& mask = (tag &&& mask) ||| (mask &&& x.zeroExtend 16) := by
    rw [BitVec.and_comm mask]
    exact BitVec.and_or_distrib_right ..
  rw [h, ht, hx, BitVec.or_zero]

/-- No data bit stands under the mask's bits. -/
theorem mask_data {n : Nat} (mask : Word) (x : BitVec n) (hm : ∀ j, j < n → mask.getLsbD j = false) :
    mask &&& x.zeroExtend 16 = 0#16 := by
  apply BitVec.eq_of_getLsbD_eq
  intro j _
  by_cases hj : j < n
  · simp [hm j hj]
  · simp [BitVec.getLsbD_of_ge x j (by omega)]

theorem init : Statement .init := fun _ => rfl

theorem power (d : Data) : Statement (.power d) := fun _ =>
  (by decide : 0x20#8 &&& BitVec.ofNat 8 0xF0 = BitVec.ofNat 8 0x20)

theorem setMode (d : Data) : Statement (.setMode d) := fun _ =>
  (by decide : 0x30#8 &&& BitVec.ofNat 8 0xF0 = BitVec.ofNat 8 0x30)

theorem setFreq (i : BitVec 2) (d : Data) : Statement (.setFreq i d) := fun _ => header_mask 0x4#4 i

theorem setPhase (i : BitVec 2) (d : Data) : Statement (.setPhase i d) := fun _ => header_mask 0x5#4 i

theorem setFreqOut (i : BitVec 2) : Statement (.setFreqOut i) := fun _ => header_mask 0x6#4 i

theorem setPhaseOut (i : BitVec 2) : Statement (.setPhaseOut i) := fun _ => header_mask 0x7#4 i

theorem getFreq (i : BitVec 2) : Statement (.getFreq i) := fun _ => header_mask 0x8#4 i

theorem getPhase (i : BitVec 2) : Statement (.getPhase i) := fun _ => header_mask 0x9#4 i

theorem getFreqOut : Statement .getFreqOut := fun _ => rfl

theorem getPhaseOut : Statement .getPhaseOut := fun _ => rfl

theorem getMode : Statement .getMode := fun _ => rfl

theorem reserved0 : Statement .reserved0 := fun _ => rfl

theorem reservedD : Statement .reservedD := fun _ => rfl

theorem reservedE : Statement .reservedE := fun _ => rfl

theorem reservedF : Statement .reservedF := fun _ => rfl

theorem cmd (w : Word) : Statement (.cmd w) := by
  intro h
  have hw : w &&& 0xD215#16 = 0#16 := by
    have hm : ~~~(Config.board.cmdMask ||| (1#16 <<< Config.board.posReset.val)) = 0xD215#16 := by decide
    have hr : Config.board.reservedClear w = true := (Bool.and_eq_true_iff.mp h).1
    rw [Config.reservedClear, hm] at hr
    exact beq_iff_eq.mp hr
  show w &&& 0xC000#16 = 0x0000#16
  rw [show (0xC000#16 : Word) = 0xD215#16 &&& 0xC000#16 from by decide, ← BitVec.and_assoc, hw]
  decide

theorem resetw : Statement .resetw := fun _ => by
  show resetWord Config.board &&& 0xFFFF#16 = 0x0140#16
  decide

theorem freqLo0 (l : BitVec 14) : Statement (.freqLo0 l) := fun _ =>
  tag_mask 0x4000#16 0xC000#16 l (mask_data _ l (by decide)) (by decide)

theorem freqHi0 (h : BitVec 12) : Statement (.freqHi0 h) := fun _ => by
  show (0x4000#16 ||| (h.zeroExtend 14).zeroExtend 16) &&& 0xF000#16 = 0x4000#16
  rw [show (h.zeroExtend 14).zeroExtend 16 = h.zeroExtend 16 from by simp]
  exact tag_mask _ _ h (mask_data _ h (by decide)) (by decide)

theorem freqLo1 (l : BitVec 14) : Statement (.freqLo1 l) := fun _ =>
  tag_mask 0x8000#16 0xC000#16 l (mask_data _ l (by decide)) (by decide)

theorem freqHi1 (h : BitVec 12) : Statement (.freqHi1 h) := fun _ => by
  show (0x8000#16 ||| (h.zeroExtend 14).zeroExtend 16) &&& 0xF000#16 = 0x8000#16
  rw [show (h.zeroExtend 14).zeroExtend 16 = h.zeroExtend 16 from by simp]
  exact tag_mask _ _ h (mask_data _ h (by decide)) (by decide)

theorem phase0 (p : PhaseVal) : Statement (.phase0 p) := fun _ =>
  tag_mask 0xC000#16 0xF000#16 p (mask_data _ p (by decide)) (by decide)

theorem phase1 (p : PhaseVal) : Statement (.phase1 p) := fun _ =>
  tag_mask 0xE000#16 0xF000#16 p (mask_data _ p (by decide)) (by decide)

end Sys2Proof.Laws.TableRow
end

