-- ==== Sys2Proof/Laws/Requests.lean ====
section
/-! SUPPORT. A request's lines, said once: the rejection when its check fails, the operation's own lines when it passes. -/

namespace Sys2Proof.Machine

/-- The lines of an instruction once its check has passed; for a wire word, its frame. -/
def passBody (i : Instr) (s : State) : List Micro :=
  match i with
  | .init =>
    [.clearCmd, .setBit .b28 true, .selEnable, .waitInit, .emit .any (resetWord s.cfg), .holdSetBit .sleep12 true] ++
      setFreqBody s.cfg .b0 0#64 ++ setFreqBody s.cfg .b1 0#64 ++
      setPhaseBody s.cfg .b0 0#12 ++ setPhaseBody s.cfg .b1 0#12 ++
      setFreqOutBody false ++ setPhaseOutBody false ++ powerBody false ++
      [.setMode modeOff, .setInit, .respond .ok 0#64]
  | .power d => powerBody (powerOn d) ++ [.respond .ok 0#64]
  | .setMode d => modeBits (modeCode d) s ++ [.setMode (modeCode d), .emitCmd, .respond .ok 0#64]
  | .setFreq i d => setFreqBody s.cfg (bankOf i) d ++ [.respond .ok 0#64]
  | .setPhase i d => setPhaseBody s.cfg (bankOf i) (phaseOperand d) ++ [.respond .ok 0#64]
  | .setFreqOut i => setFreqOutBody (selectOf i) ++ [.respond .ok 0#64]
  | .setPhaseOut i => setPhaseOutBody (selectOf i) ++ [.respond .ok 0#64]
  | .getFreq i => [.respond .ok (s.freq (bankOf i))]
  | .getPhase i => [.respond .ok ((s.phase (bankOf i)).zeroExtend 64)]
  | .getFreqOut => [.respond .ok (zextBit s.fsel)]
  | .getPhaseOut => [.respond .ok (zextBit s.psel)]
  | .getMode => [.respond .ok (s.mode.zeroExtend 64)]
  | .reserved0 => []
  | .reservedD => []
  | .reservedE => []
  | .reservedF => []
  | .cmd w => planCmd w s
  | .resetw => planResetw s
  | .freqLo0 l => planFreqLo0 l s
  | .freqHi0 h => planFreqHi0 h s
  | .freqLo1 l => planFreqLo1 l s
  | .freqHi1 h => planFreqHi1 h s
  | .phase0 p => planPhase0 p s
  | .phase1 p => planPhase1 p s

/-- The index and the operand an instruction's check looks at stand in the instruction. -/
def checkOf (i : Instr) (s : State) : Option Status :=
  match i with
  | .init => checkRequest 0x1#4 0#2 0#64 s
  | .power d => checkRequest 0x2#4 0#2 d s
  | .setMode d => checkRequest 0x3#4 0#2 d s
  | .setFreq i d => checkRequest 0x4#4 i d s
  | .setPhase i d => checkRequest 0x5#4 i d s
  | .setFreqOut i => checkRequest 0x6#4 i 0#64 s
  | .setPhaseOut i => checkRequest 0x7#4 i 0#64 s
  | .getFreq i => checkRequest 0x8#4 i 0#64 s
  | .getPhase i => checkRequest 0x9#4 i 0#64 s
  | .getFreqOut => checkRequest 0xA#4 0#2 0#64 s
  | .getPhaseOut => checkRequest 0xB#4 0#2 0#64 s
  | .getMode => checkRequest 0xC#4 0#2 0#64 s
  | .reserved0 => checkRequest 0x0#4 0#2 0#64 s
  | .reservedD => checkRequest 0xD#4 0#2 0#64 s
  | .reservedE => checkRequest 0xE#4 0#2 0#64 s
  | .reservedF => checkRequest 0xF#4 0#2 0#64 s
  | .cmd _ => none
  | .resetw => none
  | .freqLo0 _ => none
  | .freqHi0 _ => none
  | .freqLo1 _ => none
  | .freqHi1 _ => none
  | .phase0 _ => none
  | .phase1 _ => none

/-- An instruction's lines are the rejection its check names, or its own. -/
theorem plan_eq (i : Instr) (s : State) :
    plan i s = match checkOf i s with
      | some st => reject st
      | none => passBody i s := by
  cases i <;> rfl

theorem plan_of_checkOf_none {i : Instr} {s : State} (h : checkOf i s = none) : plan i s = passBody i s := by
  rw [plan_eq, h]

theorem plan_of_checkOf_some {i : Instr} {s : State} {st : Status} (h : checkOf i s = some st) : plan i s = reject st := by
  rw [plan_eq, h]

/-- Inversion: what an instruction can do. Either its check fails and only the response port changes, or its own lines are
performed. -/
theorem exec_cases (i : Instr) (s : State) :
    (∃ st, checkOf i s = some st ∧ exec i s = .next (answered st 0#64 s)) ∨
      (checkOf i s = none ∧ exec i s = .next (perform (passBody i s) s)) := by
  cases h : checkOf i s with
  | some st => exact .inl ⟨st, rfl, by rw [exec_eq_plan, plan_of_checkOf_some h]; rfl⟩
  | none => exact .inr ⟨rfl, by rw [exec_eq_plan, plan_of_checkOf_none h]⟩

/-- The check looks at the operand of SET_FREQ alone, and at the index of the indexed operations alone. -/
theorem checkRequest_congr {op : BitVec 4} {i j : BitVec 2} {d e : Data} {s : State} (hi : indexed op = true → i = j)
    (hd : op = 0x4#4 → d = e) : checkRequest op i d s = checkRequest op j e s := by
  unfold checkRequest
  by_cases h1 : indexed op = true
  · by_cases h2 : op = 0x4#4
    · rw [hi h1, hd h2]
    · rw [hi h1]
      simp [h2]
  · have h2 : op ≠ 0x4#4 := fun e => h1 (by rw [e]; decide)
    simp [h1, h2]

/-- Decoding a request keeps what its check looks at. -/
theorem checkOf_decodeRequest (r : Request) (s : State) :
    checkOf (decodeRequest r) s = checkRequest r.op r.idx r.data s := by
  obtain ⟨⟨⟨n, hn⟩⟩, idx, d⟩ := r
  interval_cases n <;>
    exact checkRequest_congr (fun h => by first | rfl | exact absurd h (by decide))
      (fun h => by first | rfl | exact absurd h (by decide))

theorem isRequest_decodeRequest (r : Request) : isRequest (decodeRequest r) = true := by
  obtain ⟨⟨⟨n, hn⟩⟩, idx, d⟩ := r
  interval_cases n <;> rfl

/-- A check that passes needs `st.init`, but for INIT. -/
theorem init_of_checkOf_none {i : Instr} {s : State} (h : checkOf i s = none) (hr : isRequest i = true) :
    i = .init ∨ s.init = true := by
  cases i <;> first
    | exact .inl rfl
    | exact absurd hr Bool.false_ne_true
    | (refine .inr ?_; cases hi : s.init with
        | true => rfl
        | false => simp [checkOf, checkRequest, hi] at h)

/-- The check does not look at the response port. -/
@[simp] theorem checkOf_setResp (i : Instr) (s : State) (x : Option Response) :
    checkOf i { s with resp := x } = checkOf i s := by
  cases i <;> rfl

@[simp] theorem plan_setResp (i : Instr) (s : State) (x : Option Response) : plan i { s with resp := x } = plan i s := by
  cases i <;> rfl

end Sys2Proof.Machine
end

