-- ==== Sys2Proof/Laws/Step.lean ====
section
/-! SUPPORT. What a step can do, said once: every fact about all steps follows from `step_cases`. -/

namespace Sys2Proof.Machine

/-- A wire word that decodes gives an instruction that frames one word and does nothing else. -/
theorem exec_decodeWire {c : Config} {slot : Slot} {w : Word} {i : Instr} (h : decodeWire c slot w = .ok i) (s : State) :
    ∃ w', exec i s = .next (emitFrame w' s) := by
  unfold decodeWire at h
  split at h
  · rename_i j _
    cases slot <;> cases j <;> simp only [decodeFreqWord, freqLowInstr, freqHighInstr] at h <;> (try split at h) <;>
      first
        | (injection h with h; subst h; exact ⟨_, rfl⟩)
        | exact absurd h (by simp)
  · injection h with h; subst h; exact ⟨_, rfl⟩
  · injection h with h; subst h; exact ⟨_, rfl⟩
  · split at h <;> (injection h with h; subst h; exact ⟨_, rfl⟩)
  · exact absurd h (by simp)

/-- A wire word fetched from the queue frames one word, whether it decodes or not. -/
theorem fetchWord_run (slot : Slot) (w : Word) (s : State) :
    (∃ i w', fetchWord slot w s = .run i s ∧ decodeWire s.cfg slot w = .ok i ∧ exec i s = .next (emitFrame w' s)) ∨
      fetchWord slot w s = .internal (emitFrame w s) := by
  cases h : decodeWire s.cfg slot w with
  | ok i =>
    obtain ⟨w', hw⟩ := exec_decodeWire h s
    exact .inl ⟨i, w', by simp [fetchWord, h], rfl, hw⟩
  | error e => exact .inr (by simp [fetchWord, h])

/-- Inversion: what a step that answers a next state has done. -/
theorem step_cases {s t : State} (h : step s = .next t) :
    (∃ p rest, s.inputs = .clock p :: rest ∧ t = clockEdge p { s with inputs := rest }) ∨
    (∃ r rest, s.seq = .idle ∧ s.inputs = .request r :: rest ∧
      exec (decodeRequest r) { s with inputs := rest, resp := none } = .next t) ∨
    (s.seq = .idle ∧ s.inputs = [] ∧ t = { s with resp := none }) ∨
    (∃ ph q, s.seq = .busy (some ph) q ∧ t = { finishPhase ph s with seq := .busy none q }) ∨
    (s.seq = .busy none [] ∧ t = { s with seq := .idle, resp := none }) ∨
    (∃ op q, s.seq = .busy none (op :: q) ∧ op.frames = false ∧ t = applyMicro op { s with seq := .busy none q }) ∨
    (∃ op q w, s.seq = .busy none (op :: q) ∧ op.frames = true ∧ t = emitFrame w { s with seq := .busy none q }) := by
  have queue : ∀ cur q, s.seq = .busy cur q →
      (match fetchQueue cur q s with
        | .edge p u => Host.Outcome.next (clockEdge p u)
        | .run i u => exec i u
        | .internal u => .next u) = .next t →
      (∃ ph q, s.seq = .busy (some ph) q ∧ t = { finishPhase ph s with seq := .busy none q }) ∨
      (s.seq = .busy none [] ∧ t = { s with seq := .idle, resp := none }) ∨
      (∃ op q, s.seq = .busy none (op :: q) ∧ op.frames = false ∧ t = applyMicro op { s with seq := .busy none q }) ∨
      (∃ op q w, s.seq = .busy none (op :: q) ∧ op.frames = true ∧ t = emitFrame w { s with seq := .busy none q }) := by
    intro cur q hs hq
    cases cur with
    | some ph =>
      injection hq with hq
      exact .inl ⟨ph, q, hs, hq.symm⟩
    | none =>
      cases q with
      | nil =>
        injection hq with hq
        exact .inr (.inl ⟨hs, hq.symm⟩)
      | cons op q =>
        have word : ∀ slot w, op.frames = true → fetchQueue none (op :: q) s = fetchWord slot w { s with seq := .busy none q } →
            ∃ op q w, s.seq = .busy none (op :: q) ∧ op.frames = true ∧ t = emitFrame w { s with seq := .busy none q } := by
          intro slot w hop he
          rw [he] at hq
          rcases fetchWord_run slot w { s with seq := .busy none q } with ⟨i, w', h1, _, h3⟩ | h1
          · rw [h1] at hq
            simp only [h3] at hq
            injection hq with hq
            exact ⟨op, q, w', hs, hop, hq.symm⟩
          · rw [h1] at hq
            injection hq with hq
            exact ⟨op, q, w, hs, hop, hq.symm⟩
        cases op with
        | emit slot w => exact .inr (.inr (.inr (word slot w rfl rfl)))
        | emitCmd => exact .inr (.inr (.inr (word .any s.cmd rfl rfl)))
        | _ =>
          injection hq with hq
          exact .inr (.inr (.inl ⟨_, _, hs, rfl, hq.symm⟩))
  have seqCases : s.seq = .idle ∨ ∃ cur q, s.seq = .busy cur q := by
    cases s.seq with
    | idle => exact .inl rfl
    | busy cur q => exact .inr ⟨cur, q, rfl⟩
  have inputCases : s.inputs = [] ∨ (∃ p rest, s.inputs = .clock p :: rest) ∨ ∃ r rest, s.inputs = .request r :: rest := by
    rcases s.inputs with _ | ⟨p | r, rest⟩
    exacts [.inl rfl, .inr (.inr ⟨p, rest, rfl⟩), .inr (.inl ⟨r, rest, rfl⟩)]
  rcases inputCases with hi | ⟨p, rest, hi⟩ | ⟨r, rest, hi⟩
  · rcases seqCases with hs | ⟨cur, q, hs⟩
    · simp only [step, fetch, hi, hs] at h
      injection h with h
      exact .inr (.inr (.inl ⟨hs, hi, by rw [← h]; simp only [hi, hs]⟩))
    · simp only [step, fetch, hi, hs] at h
      exact .inr (.inr (.inr (queue cur q hs h)))
  · simp only [step, fetch, hi] at h
    injection h with h
    exact .inl ⟨p, rest, hi, h.symm⟩
  · rcases seqCases with hs | ⟨cur, q, hs⟩
    · simp only [step, fetch, hi, hs] at h
      exact .inr (.inl ⟨r, rest, hs, hi, by rw [← h, hs]⟩)
    · simp only [step, fetch, hi, hs] at h
      exact .inr (.inr (.inr (queue cur q hs h)))

end Sys2Proof.Machine
end

