-- ==== Sys2Proof/Tests/Slice0.lean ====
section
/-! SUPPORT. Tests: ill-formed terms refused; the words of 30_encoding.md and opcode_table.json decoded; the vectors of
95_test_vectors.md (S, V and program numbers in the comments), one step each; and, for every statement of
Certificates/Slice0 that has hypotheses, a witness that they can hold together. -/

namespace Sys2Proof.Tests

open Sys2Proof.Machine

/-! ### Small states -/

/-- The default layout, `F_MCLK` = 25 MHz, `F_CLK` = 200 kHz, and V12's wait counts. -/
def cfg : Config where
  fMclkNum := 25000000
  fMclkDen := 1
  fClkNum := 200000
  fClkDen := 1
  posB28 := 13
  posReset := 8
  posSleep1 := 7
  posSleep12 := 6
  posMode := 1
  posOpbiten := 5
  posDiv2 := 3
  posFsel := 11
  posPsel := 10
  freqTag0 := 0x4000#16
  freqTag1 := 0x8000#16
  phaseTag0 := 0xC000#16
  phaseTag1 := 0xE000#16
  nSu := 2
  nH := 2
  nInit := 2
  nGap := 1
  offPolicy := .unchanged
  txBitOrder := .msbFirst

/-- The same with `F_MCLK = 2^28` Hz (V2). -/
def cfg28 : Config := { cfg with fMclkNum := 268435456 }

/-- Right after reset, with these parameters. -/
def fresh : State := { State.reset with cfg := cfg }

/-- Initialised, with this mirror and the caches that agree with it. -/
def ready (w : Word) : State :=
  { fresh with cmd := w, init := true, selOe := true, fsel := w.getLsbD 11, psel := w.getLsbD 10 }

/-- In the middle of an event. -/
def during (ph : Phase) : State := { ready 0x20C0#16 with seq := .busy (some ph) [], selN := !ph.selectLow }

/-- A quiet clock edge. -/
def quiet : Pins := { rst := false, reqValid := false, req := { op := 0#4, idx := 0#2, data := 0#64 }, txDone := false }

/-- A request with this header and operand. -/
def req (h : Byte) (d : Data) : Request := requestOf h d

/-- The state a step leaves, or the state itself. -/
def after (o : Host.Outcome State Fault Refusal) (s : State) : State :=
  match o with
  | .next t => t
  | _ => s

/-! ### Well-formedness -/

/-- R54: RESET is always 0 in a command word. -/
theorem test_wellFormed_rejects_reset_bit : (Instr.cmd 0x2100#16).wellFormed cfg = false := by decide

/-- R17: bits 15, 14, 12, 9, 4, 2 and 0 are reserved with the default positions. -/
theorem test_wellFormed_rejects_reserved_bits :
    [0x8000#16, 0x4000#16, 0x1000#16, 0x0200#16, 0x0010#16, 0x0004#16, 0x0001#16].all
      (fun w => !(Instr.cmd w).wellFormed cfg) = true := by decide

theorem test_wellFormed_accepts_init_mirror : (Instr.cmd 0x20C0#16).wellFormed cfg = true := by decide

/-! ### Decoding: words written out from R48, R49 and R54 to R57 -/

/-- One header per operation code of R49's table, some with a don't-care index. -/
theorem test_decode_requests :
    [0x10, 0x23, 0x30, 0x41, 0x50, 0x61, 0x73, 0x80, 0x91, 0xA3, 0xB0, 0xC0, 0x00, 0xD1, 0xE0, 0xF2].map (decodeTableWord 8) =
      [.init, .power 0#64, .setMode 0#64, .setFreq 1#2 0#64, .setPhase 0#2 0#64, .setFreqOut 1#2, .setPhaseOut 3#2,
       .getFreq 0#2, .getPhase 1#2, .getFreqOut, .getPhaseOut, .getMode, .reserved0, .reservedD, .reservedE,
       .reservedF].map some := by decide

/-- R48: `H[3:2]` is ignored. -/
theorem test_decode_ignores_missing_header_bits : decodeTableWord 8 0x4D = some (.setFreq 1#2 0#64) := by decide

/-- Header, then operand: `set_phase 1, 8191` (V5). -/
theorem test_decode_operand : decodeTableWord 72 (0x1FFF * 256 + 0x51) = some (.setPhase 1#2 0x1FFF#64) := by decide

/-- V3, V11, V5: 0x7FFD is a low word by its bits 13:12; a word with bits 13:12 zero reads as a high word (log 6). -/
theorem test_decode_wire_words :
    [0x0140, 0x20C0, 0x0000, 0x7FFD, 0x4800, 0xBFFF, 0x8FFF, 0xC800, 0xEFFF].map (decodeTableWord 16) =
      [.resetw, .cmd 0x20C0#16, .cmd 0x0000#16, .freqLo0 0x3FFD#14, .freqHi0 0x800#12, .freqLo1 0x3FFF#14,
       .freqHi1 0xFFF#12, .phase0 0x800#12, .phase1 0xFFF#12].map some := by decide

/-- R55: by its position the same word is the low or the high transfer. -/
theorem test_decode_position_tells_low_from_high :
    (decodeWire cfg .freqLow 0x4A7C#16).toOption = some (.freqLo0 0xA7C#14) ∧
      (decodeWire cfg .freqHigh 0x4A7C#16).toOption = some (.freqHi0 0xA7C#12) := by decide

/-- R33: 0xD000 carries the tag of no target. -/
theorem test_decode_rejects_no_target : decodeWire cfg .any 0xD000#16 = .error (.noTarget 0xD000#16) := by decide

/-- R55: the high transfer has `w[13:12] = 0b00`. -/
theorem test_decode_rejects_high_word_bits : decodeWire cfg .freqHigh 0x5000#16 = .error (.highWordBits 0x5000#16) := by decide

/-- V11: with `POS_RESET = 0` and `POS_SLEEP12 = 1`, `RESETW = 0x0003`. -/
theorem test_resetWord_other_positions :
    resetWord { cfg with posReset := 0, posB28 := 8, posSleep12 := 1, posMode := 6 } = 0x0003#16 := by decide

/-! ### The scaler and the splitter (V1, V2, V3) -/

theorem test_scale_v1 :
    [0x8000000000000000#64, 0x0000000000000001#64, 0x3FA7D78400000000#64, 0x3FB7D78400000000#64, 0x3FC1E1A300000000#64,
     0x4004000000000000#64, 0x408F400000000000#64, 0x40F0000000000000#64, 0x4167D78400000000#64, 0x4177D78400000000#64,
     0x41A0000000000000#64, 0x41CDCD6500000000#64, 0xBFD0000000000000#64, 0xBFF0000000000000#64].map (scale cfg) =
      [0x0000000#28, 0x0000000#28, 0x0000001#28, 0x0000001#28, 0x0000002#28, 0x000001B#28, 0x00029F1#28, 0x00ABCC7#28,
       0x8000000#28, 0x0000000#28, 0x5E63B89#28, 0x0000000#28, 0xFFFFFFD#28, 0xFFFFFF5#28] := by decide +kernel

theorem test_scale_v2 :
    [0x3FE0000000000000#64, 0x4004000000000000#64, 0x3FB7D78400000000#64, 0x41AFFFFFFE800000#64, 0x41AFFFFFFF000000#64,
     0x41CDCD6500000000#64, 0xBFD0000000000000#64, 0xBFE0000000000000#64].map (scale cfg28) =
      [0x0000001#28, 0x0000003#28, 0x0000000#28, 0xFFFFFFF#28, 0x0000000#28, 0xB9ACA00#28, 0x0000000#28,
       0xFFFFFFF#28] := by decide +kernel

theorem test_split_v3 :
    [0x0000003#28, 0x0000004#28, 0x000C000#28, 0x0010000#28, 0xFFFFFF5#28].map (split cfg .b0) =
        [(0x4000#16, 0x4000#16), (0x4001#16, 0x4000#16), (0x7000#16, 0x4000#16), (0x4000#16, 0x4001#16),
         (0x7FFD#16, 0x4FFF#16)] ∧
      split cfg .b1 0x00ABCC7#28 = (0xAF31#16, 0x800A#16) := by decide

/-! ### Requests (V4 to V11), one step each -/

/-- V11, from reset. -/
theorem test_init_v11 :
    framesOf (after (exec .init fresh) fresh).trace =
        [0x0140#16, 0x2040#16, 0x4000#16, 0x4000#16, 0x2040#16, 0x8000#16, 0x8000#16, 0xC000#16, 0xE000#16, 0x2040#16,
         0x2040#16, 0x20C0#16] ∧
      (after (exec .init fresh) fresh).cmd = 0x20C0#16 := by decide +kernel

/-- V11: a second INIT from `st.cmd = 0x2828` clears the earlier bits. -/
theorem test_init_again :
    (after (exec .init (ready 0x2828#16)) fresh).cmd = 0x20C0#16 ∧
      (after (exec .init (ready 0x2828#16)) fresh).fsel = false := by decide +kernel

/-- V7. -/
theorem test_power_v7 :
    [0#64, 1#64, 2#64, 0x100#64, 0x8000000000000000#64].map
        (fun d => (after (exec (.power d) (ready 0x20E8#16)) fresh).trace) =
      [[.frame 0x20E8#16], [.frame 0x2028#16], [.frame 0x2028#16], [.frame 0x2028#16], [.frame 0x2028#16]] := by decide

/-- V6: one row of the table. -/
theorem test_setMode_v6 :
    [0#64, 1#64, 2#64, 3#64, 9#64].map (fun d => (after (exec (.setMode d) (ready 0x2028#16)) fresh).cmd) =
      [0x20E8#16, 0x200A#16, 0x2028#16, 0x2008#16, 0x2028#16] := by decide

/-- V6: the code given is stored, and `D[63:8]` is ignored (R50). -/
theorem test_setMode_stores_code :
    (after (exec (.setMode 0xFF09#64) (ready 0x2000#16)) fresh).mode = 9#8 ∧
      (after (exec (.setMode 0xFF09#64) (ready 0x2000#16)) fresh).trace = [.frame 0x2000#16] := by decide

/-- V4, S10. -/
theorem test_setFreq_v4 :
    (after (exec (.setFreq 0#2 0x408F400000000000#64) (ready 0x20C0#16)) fresh).trace =
        [.frame 0x20C0#16, .frame 0x4A7C#16, .frame 0x4000#16] ∧
      (after (exec (.setFreq 1#2 0x4167D78400000000#64) (ready 0x20C0#16)) fresh).trace =
        [.frame 0x20C0#16, .frame 0x8000#16, .frame 0x8800#16] := by decide +kernel

/-- V4: a NaN with index 2 is BAD_INDEX, with index 0 BAD_VALUE; +inf is BAD_VALUE. -/
theorem test_setFreq_rejections :
    [(0x42#8, 0x7FF8000000000000#64), (0x40#8, 0x7FF8000000000000#64), (0x40#8, 0x7FF0000000000000#64)].map
        (fun x => (after (exec (decodeRequest (req x.1 x.2)) (ready 0x20C0#16)) fresh).resp.map Response.status) =
      [some .badIndex, some .badValue, some .badValue] := by decide +kernel

/-- V5. -/
theorem test_setPhase_v5 :
    (after (exec (.setPhase 0#2 0xABCD#64) (ready 0x20C0#16)) fresh).trace = [.frame 0xCBCD#16] ∧
      (after (exec (.setPhase 1#2 8191#64) (ready 0x20C0#16)) fresh).phase1 = 0xFFF#12 := by decide

/-- V8. -/
theorem test_setFreqOut_v8 :
    (after (exec (.setFreqOut 0#2) (ready 0x2CC0#16)) fresh).trace = [.frame 0x24C0#16] ∧
      (after (exec (.setFreqOut 1#2) (ready 0x20C0#16)) fresh).fsel = true := by decide

/-- V8. -/
theorem test_setPhaseOut_v8 :
    (after (exec (.setPhaseOut 0#2) (ready 0x2CC0#16)) fresh).trace = [.frame 0x28C0#16] ∧
      (after (exec (.setPhaseOut 3#2) (ready 0x20C0#16)) fresh).resp = some { status := .badIndex, data := 0#64 } := by decide

/-- V9. -/
theorem test_accessors_v9 :
    let s := { ready 0x2CC0#16 with freq0 := 0x8000000000000000#64, phase1 := 0xFFF#12, mode := 9#8 }
    [Instr.getFreq 0#2, .getFreq 2#2, .getPhase 1#2, .getFreqOut, .getPhaseOut, .getMode].map
        (fun i => (after (exec i s) fresh).resp) =
      [some { status := .ok, data := 0x8000000000000000#64 }, some { status := .badIndex, data := 0#64 },
       some { status := .ok, data := 0xFFF#64 }, some { status := .ok, data := 1#64 },
       some { status := .ok, data := 1#64 }, some { status := .ok, data := 9#64 }] := by decide

/-- V10: from reset. -/
theorem test_rejections_v10 :
    [0x00#8, 0xD0#8, 0xE0#8, 0xF0#8, 0x20#8, 0x42#8, 0x80#8].map
        (fun h => (after (exec (decodeRequest (req h 0x7FF8000000000000#64)) fresh) fresh).resp.map (fun r => statusCode r.status)) =
      [some 1#3, some 1#3, some 1#3, some 1#3, some 2#3, some 2#3, some 2#3] := by decide +kernel

/-- The byte stream of Program 1's last two frames: `20 C0 | 20 00` (R36). -/
theorem test_trace_bytes : traceBytes [.frame 0x20C0#16, .frame 0x2000#16] = [0x20#8, 0xC0#8, 0x20#8, 0x00#8] := by decide

/-- R37: the bit order of a line model. -/
theorem test_line_bits :
    lineBits .msbFirst 0x0B#8 = [false, false, false, false, true, false, true, true] ∧
      lineBits .lsbFirst 0x0B#8 = [true, true, false, true, false, false, false, false] := by decide

/-! ### Steps -/

/-- The opcode-table word placed after reset is the first instruction: INIT is accepted, the others answer NOT_INIT or
ILLEGAL_OP (V10). -/
theorem test_step_first_instruction :
    [0x10, 0x20, 0x80, 0xD0].map
        (fun w => (after (step (fresh.withFetchWord 8 w)) fresh).resp.map (fun r => statusCode r.status)) =
      [some 0#3, some 2#3, some 2#3, some 1#3] := by decide +kernel

/-- A wire word placed after reset is framed by the next step. -/
theorem test_step_first_wire_word :
    [0x0140, 0x20C0, 0x7FFD, 0x4800, 0xBFFF, 0x8FFF, 0xC800, 0xEFFF].map
        (fun w => (after (step (fresh.withFetchWord 16 w)) fresh).trace) =
      [[.frame 0x0140#16], [.frame 0x20C0#16], [.frame 0x7FFD#16], [.frame 0x4800#16], [.frame 0xBFFF#16],
       [.frame 0x8FFF#16], [.frame 0xC800#16], [.frame 0xEFFF#16]] := by decide +kernel

/-- V12: the eleven cycles of `Emit(0x2000)`, as `(sel_n, tx_start, tx_byte)`, with `tx_done` in cycles 4 and 7. -/
theorem test_frame_timing_v12 :
    let d := { quiet with txDone := true }
    let s := during (.setup 0x2000#16 0)
    ([[], [quiet], [quiet, quiet], [quiet, quiet, quiet], [quiet, quiet, quiet, quiet],
      [quiet, quiet, quiet, quiet, d], [quiet, quiet, quiet, quiet, d, quiet],
      [quiet, quiet, quiet, quiet, d, quiet, quiet], [quiet, quiet, quiet, quiet, d, quiet, quiet, d],
      [quiet, quiet, quiet, quiet, d, quiet, quiet, d, quiet],
      [quiet, quiet, quiet, quiet, d, quiet, quiet, d, quiet, quiet]] : List (List Pins)).map
        (fun ps => ((clockEdges ps s).selN, (clockEdges ps s).txStart, (clockEdges ps s).txByte)) =
      [(false, false, none), (false, false, none), (false, true, some 0x20#8), (false, false, some 0x20#8),
       (false, false, some 0x20#8), (false, true, some 0x00#8), (false, false, some 0x00#8), (false, false, some 0x00#8),
       (false, false, none), (false, false, none), (true, false, none)] := by decide +kernel

/-- 90_conflicts.md C4: INIT's SLEEP12 mirror write takes place inside the reset frame's hold, select still low. -/
theorem test_init_mirror_write_in_hold :
    let s := { during (.lo 0x0140#16 false) with cmd := 0x2000#16, seq := .busy (some (.lo 0x0140#16 false)) [.holdSetBit .sleep12 true] }
    (clockEdge { quiet with txDone := true } s).cmd = 0x2040#16 ∧
      (clockEdge { quiet with txDone := true } s).seq = .busy (some (.hold 0x0140#16 0)) [] ∧
      (clockEdge { quiet with txDone := true } s).selN = false := by decide

/-! ### Assembler (R59, and the literals of V1) -/

theorem test_assemble_integers :
    [assemble "init", assemble "power 0x8000000000000000", assemble "set_phase 0, 0xABCD", assemble "get_phase 1"].map Except.toOption =
      [some (req 0x10#8 0#64), some (req 0x20#8 0x8000000000000000#64), some (req 0x50#8 0xABCD#64),
       some (req 0x91#8 0#64)] := by decide +kernel

theorem test_assemble_floats :
    [assemble "set_frequency 0, 1000.0", assemble "set_frequency 1, 0.09313225746154785", assemble "set_frequency 0, -0.0",
     assemble "set_frequency 0, 4.9406564584124654e-324"].map Except.toOption =
      [some (req 0x40#8 0x408F400000000000#64), some (req 0x41#8 0x3FB7D78400000000#64),
       some (req 0x40#8 0x8000000000000000#64), some (req 0x40#8 0x0000000000000001#64)] := by decide +kernel

/-- R59: the document's call form is the same request. -/
theorem test_assemble_call_form : assemble "set_frequency(0, 1000.0)" = assemble "set_frequency 0, 1000.0" := by decide +kernel

/-- An operand that does not fit its field is a syntax error. -/
theorem test_assemble_does_not_fit :
    assemble "get_frequency 4" = .error .doesNotFit ∧ assemble "power 18446744073709551616" = .error .doesNotFit := by
  decide +kernel

/-! ### Witnesses: the hypotheses of each statement of Certificates/Slice0, met together -/

/-- A quiet edge with `tx_done`. -/
def done : Pins := { quiet with txDone := true }

/-- An edge at which this request is offered. -/
def offer (h : Byte) (d : Data) : Pins := { quiet with reqValid := true, req := req h d }

theorem cfg_wf : cfg.Wf := by decide

theorem cfg28_wf : cfg28.Wf := by decide

/-- The states used below meet the invariant. -/
theorem fresh_inv : Inv fresh := by
  refine ⟨cfg_wf, ?_, by decide, by decide, by decide⟩
  constructor <;> decide

theorem ready_inv : Inv (ready 0x2CC0#16) := by
  refine ⟨cfg_wf, ?_, by decide, by decide, by decide⟩
  constructor <;> decide

/-- An instruction answers some next state, so a hypothesis `exec i s = .next t` is met by that `t`. -/
theorem exec_answers (i : Instr) (s : State) : ∃ t, exec i s = .next t := by
  cases i <;> exact ⟨_, rfl⟩

theorem witness_ResetEdgeRestoresEveryField : ({ quiet with rst := true } : Pins).rst = true := rfl

theorem witness_StepRunsTheDecodedInstruction :
    (({ fresh with inputs := [.request (req 0x10#8 0#64)] } : State).seq = .idle) ∧
      decodeWire cfg .freqLow 0x4A7C#16 = .ok (.freqLo0 0xA7C#14) ∧
      (({ ready 0x20C0#16 with seq := .busy none [.emitCmd] } : State).seq = .busy none [.emitCmd] ∧
        decodeWire (ready 0x20C0#16).cfg .any (ready 0x20C0#16).cmd = .ok (.cmd 0x20C0#16)) ∧
      (∀ p rest, (fresh.inputs : List Input) ≠ .clock p :: rest) ∧
      (({ fresh with inputs := [.clock quiet] } : State).inputs = [.clock quiet]) :=
  ⟨rfl, by decide, ⟨rfl, by decide⟩, fun _ _ h => List.noConfusion rfl (heq_of_eq h), rfl⟩

theorem witness_StepKeepsParametersAndTrace : ∃ t, step { fresh with inputs := [.request (req 0x10#8 0#64)] } = .next t :=
  ⟨_, rfl⟩

theorem witness_HeaderCarriesOpAndIndex :
    (0x4D#8 : Byte).extractLsb' 4 4 = (0x41#8 : Byte).extractLsb' 4 4 ∧
      (0x4D#8 : Byte).extractLsb' 0 2 = (0x41#8 : Byte).extractLsb' 0 2 := by decide

theorem witness_DecodeInvertsEncode : cfg.Wf ∧ (Instr.cmd 0x20C0#16).wellFormed cfg = true := by decide

theorem witness_EncodeInvertsWireDecode :
    cfg.Wf ∧ decodeWire cfg .freqHigh 0x4FFF#16 = .ok (.freqHi0 0xFFF#12) ∧
      decodeWire cfg .any 0x20C0#16 = .ok (.cmd 0x20C0#16) := by decide

theorem witness_CheckReportsFirstCause :
    checkRequest 0x0#4 3#2 0#64 fresh = some .illegalOp ∧ checkRequest 0xD#4 0#2 0#64 (ready 0x20C0#16) = some .illegalOp ∧
      checkRequest 0xC#4 0#2 0#64 fresh = some .notInit ∧ checkRequest 0x9#4 2#2 0#64 (ready 0x20C0#16) = some .badIndex ∧
      checkRequest 0x4#4 1#2 0xFFF0000000000000#64 (ready 0x20C0#16) = some .badValue ∧
      checkRequest 0xA#4 3#2 0#64 (ready 0x20C0#16) = none ∧ checkRequest 0x1#4 3#2 0#64 fresh = none := by decide

theorem witness_RejectedRequestChangesNothing :
    checkRequest (req 0x62#8 0#64).op (req 0x62#8 0#64).idx 0#64 (ready 0x20C0#16) = some .badIndex := by decide

theorem witness_RequestsBeforeInitAreRejected :
    fresh.init = false ∧ 2 ≤ (req 0x20#8 0#64).op.toNat ∧ (req 0xC0#8 0#64).op.toNat ≤ 12 := by decide

theorem witness_BadOperandsAreRejected :
    (ready 0x20C0#16).init = true ∧ (0x7FF0000000000000#64 : Data).extractLsb' 52 11 = 0x7FF#11 := by decide

theorem witness_CheckedRequestAnswersOk :
    checkRequest (req 0x10#8 0#64).op (req 0x10#8 0#64).idx 0#64 fresh = none := by decide

theorem witness_SetBitReplacesOneBit : 15 < 16 ∧ 0 < 16 := by decide

theorem witness_InitBootsFromAnyState : fresh.cfg.Wf ∧ (ready 0x2828#16).cfg.Wf ∧ fresh.cfg.posB28 = 13 ∧
    fresh.cfg.posSleep1 = 7 ∧ fresh.cfg.posSleep12 = 6 := by decide

theorem witness_InitTraceWithDefaultLayout :
    (fresh.cfg.posB28 = 13 ∧ fresh.cfg.posReset = 8 ∧ fresh.cfg.posSleep1 = 7 ∧ fresh.cfg.posSleep12 = 6 ∧
      fresh.cfg.posMode = 1 ∧ fresh.cfg.posOpbiten = 5 ∧ fresh.cfg.posDiv2 = 3 ∧ fresh.cfg.posFsel = 11 ∧
      fresh.cfg.posPsel = 10 ∧ fresh.cfg.freqTag0 = 0x4000#16 ∧ fresh.cfg.freqTag1 = 0x8000#16 ∧
      fresh.cfg.phaseTag0 = 0xC000#16 ∧ fresh.cfg.phaseTag1 = 0xE000#16) ∧ ∃ t, exec .init fresh = .next t :=
  ⟨by decide, exec_answers _ _⟩

theorem witness_PowerWritesBothSleepBits : (ready 0x20C0#16).init = true ∧ fresh.init = false := by decide

theorem witness_SetModeWritesItsPattern :
    (ready 0x20C0#16).init = true ∧ fresh.init = false ∧ (0xFF#64 : Data).extractLsb' 0 8 ≠ 0#8 ∧ (0x1#64 : Data).extractLsb' 0 8 ≠ 0#8 := by decide

theorem witness_SetModeOffUnderBothPolicies :
    (ready 0x20C0#16).init = true ∧ (0x100#64 : Data).extractLsb' 0 8 = 0#8 ∧ (ready 0x20C0#16).cfg.offPolicy = .unchanged ∧
      ({ ready 0x20C0#16 with cfg := { cfg with offPolicy := .draw } } : State).cfg.offPolicy = .draw := by decide

theorem witness_ModeTableFieldByField :
    (ready 0x20C0#16).cfg.Wf ∧ (ready 0x20C0#16).init = true ∧ (0x204#64 : Data).extractLsb' 0 8 = 4#8 ∧
      ∃ t, exec (.setMode 0x204#64) (ready 0x20C0#16) = .next t :=
  ⟨cfg_wf, rfl, by decide, exec_answers _ _⟩

/-! The values of some patterns, for the scaler's statements. -/

theorem value_zeros : value 0x0000000000000000#64 = 0 ∧ value 0x8000000000000000#64 = 0 := by
  have h : expField 0x0000000000000000#64 = 0 ∧ fracField 0x0000000000000000#64 = 0 ∧
      expField 0x8000000000000000#64 = 0 ∧ fracField 0x8000000000000000#64 = 0 := by decide
  simp [value, h]

theorem value_one : value 0x3FF0000000000000#64 = 1 := by
  have h : expField 0x3FF0000000000000#64 = 1023 ∧ fracField 0x3FF0000000000000#64 = 0 ∧
      (0x3FF0000000000000#64 : Data).getLsbD 63 = false := by decide
  simp [value, h]

theorem value_halves : value 0x3FE0000000000000#64 = 1 / 2 ∧ value 0xBFE0000000000000#64 = -(1 / 2) := by
  have h : expField 0x3FE0000000000000#64 = 1022 ∧ fracField 0x3FE0000000000000#64 = 0 ∧
      (0x3FE0000000000000#64 : Data).getLsbD 63 = false ∧ expField 0xBFE0000000000000#64 = 1022 ∧
      fracField 0xBFE0000000000000#64 = 0 ∧ (0xBFE0000000000000#64 : Data).getLsbD 63 = true := by decide
  simp [value, h]

theorem value_fMclk28 : value 0x41B0000000000000#64 = fMclk cfg28 ∧ value 0x41A0000000000000#64 = fMclk cfg28 / 2 := by
  have h : expField 0x41B0000000000000#64 = 1051 ∧ fracField 0x41B0000000000000#64 = 0 ∧
      (0x41B0000000000000#64 : Data).getLsbD 63 = false ∧ expField 0x41A0000000000000#64 = 1050 ∧
      fracField 0x41A0000000000000#64 = 0 ∧ (0x41A0000000000000#64 : Data).getLsbD 63 = false := by decide
  have hc : fMclk cfg28 = 268435456 := by simp [fMclk, cfg28, cfg]
  rw [hc]
  constructor
  · simp only [value, h]
    norm_num
  · simp only [value, h]
    norm_num

theorem witness_ScaleIsExactRounding : cfg.Wf ∧ isFinite 0x7FEFFFFFFFFFFFFF#64 = true := by decide

theorem witness_ScaleBoundaryValues :
    cfg28.Wf ∧ value 0x0000000000000000#64 = 0 ∧ value 0x3FF0000000000000#64 = fMclk cfg28 / 2 ^ 28 ∧
      value 0x41B0000000000000#64 = fMclk cfg28 ∧ value 0x41A0000000000000#64 = fMclk cfg28 / 2 := by
  refine ⟨cfg28_wf, value_zeros.1, ?_, value_fMclk28.1, value_fMclk28.2⟩
  rw [value_one]
  norm_num [fMclk, cfg28, cfg]

theorem witness_ScaleArithmeticLaws :
    cfg28.Wf ∧ value 0x0000000000000000#64 = value 0x8000000000000000#64 ∧
      (0 ≤ value 0x0000000000000000#64 ∧ value 0x41B0000000000000#64 = value 0x0000000000000000#64 + (1 : Nat) * fMclk cfg28) ∧
      value 0x3FE0000000000000#64 * 2 ^ 28 / fMclk cfg28 = (0 : Nat) + 1 / 2 ∧
      value 0xBFE0000000000000#64 * 2 ^ 28 / fMclk cfg28 = -((0 : Nat) + 1 / 2) := by
  refine ⟨cfg28_wf, value_zeros.1.trans value_zeros.2.symm, ⟨le_of_eq value_zeros.1.symm, ?_⟩, ?_, ?_⟩
  · rw [value_fMclk28.1, value_zeros.1]
    simp
  · rw [value_halves.1]
    norm_num [fMclk, cfg28, cfg]
  · rw [value_halves.2]
    norm_num [fMclk, cfg28, cfg]

/-- SplitPlacesTuningBits, SplitCarriesAllButTwoBits, NaturalAssemblyIsTuningOnlyAtZero and WaitCountsMeetSourceBounds ask
for legal parameters. -/
theorem witness_legal_parameters : cfg.Wf ∧ cfg28.Wf := ⟨cfg_wf, cfg28_wf⟩

theorem witness_SetFreqEmitsThreeFrames :
    (ready 0x20C0#16).init = true ∧ isFinite 0xBFF0000000000000#64 = true ∧ fresh.init = false ∧ 1 < (2#2 : BitVec 2).toNat ∧
      (1#2 : BitVec 2).toNat ≤ 1 ∧ isFinite 0x7FF8000000000000#64 = false := by decide

theorem witness_FrequencyReadsBackVerbatim :
    (ready 0x20C0#16).init = true ∧ isFinite 0x8000000000000000#64 = true ∧
      ∃ t, exec (.setFreq 1#2 0x8000000000000000#64) (ready 0x20C0#16) = .next t :=
  ⟨rfl, by decide, exec_answers _ _⟩

/-- SetPhaseCachesAndSends, SetFreqOutWritesSelect and SetPhaseOutWritesSelect: initialised or not, a legal index or not. -/
theorem witness_indexed_setters :
    (ready 0x20C0#16).init = true ∧ fresh.init = false ∧ 1 < (2#2 : BitVec 2).toNat ∧ 1 < (3#2 : BitVec 2).toNat := by decide

theorem witness_PhaseReadsBackTruncated :
    (ready 0x20C0#16).init = true ∧ ∃ t, exec (.setPhase 1#2 4096#64) (ready 0x20C0#16) = .next t :=
  ⟨rfl, exec_answers _ _⟩

theorem witness_AccessorsAnswerCachedState : (ready 0x20C0#16).init = true ∧ fresh.init = false := by decide

theorem witness_ShortRequestsAnswerInNextCycle :
    ((offer 0x62#8 0#64).rst = false ∧ (offer 0x62#8 0#64).reqValid = true ∧ (ready 0x20C0#16).seq = .idle ∧
        checkRequest (offer 0x62#8 0#64).req.op (offer 0x62#8 0#64).req.idx 0#64 (ready 0x20C0#16) = some .badIndex) ∧
      8 ≤ (offer 0x80#8 0#64).req.op.toNat ∧ (offer 0xC0#8 0#64).req.op.toNat ≤ 12 ∧
      (during .responding).seq = .busy (some .responding) [] := by decide

theorem witness_FrameCountPerOperation :
    checkRequest (req 0x41#8 0#64).op (req 0x41#8 0#64).idx 0#64 (ready 0x20C0#16) = none ∧
      ∃ t, exec (decodeRequest (req 0x41#8 0#64)) (ready 0x20C0#16) = .next t :=
  ⟨by decide, exec_answers _ _⟩

theorem witness_MirrorIsLastCommandWord :
    (ready 0x20C0#16).cfg.Wf ∧ (ready 0x20C0#16).cfg.reservedClear (ready 0x20C0#16).cmd = true ∧
      after (exec (.power 1#64) (ready 0x20C0#16)) fresh = answered .ok 0#64 (emitted [0x2000#16] { ready 0x20C0#16 with cmd := 0x2000#16 }) ∧
      wireTarget cfg 0x2000#16 = some .command := by decide

theorem witness_OnlyInitSendsReset :
    (ready 0x20C0#16).cfg.Wf ∧ (ready 0x20C0#16).field .reset = false ∧ wireTarget cfg 0x0140#16 = some .command ∧
      (0x0140#16 : Word).getLsbD cfg.posReset.val = true ∧ ∃ t, exec (decodeRequest (req 0x10#8 0#64)) (ready 0x20C0#16) = .next t :=
  ⟨cfg_wf, by decide, by decide, by decide, exec_answers _ _⟩

/-- MirrorBitsKeptByEachSetter: bit 0 is none of the fields. EachFieldHasItsWriters: the same `exec` hypothesis. -/
theorem witness_MirrorBitsKeptByEachSetter :
    ((0 : Nat) ≠ cfg.posSleep1.val ∧ 0 ≠ cfg.posSleep12.val ∧ 0 ≠ cfg.posOpbiten.val ∧ 0 ≠ cfg.posDiv2.val ∧
      0 ≠ cfg.posMode.val ∧ 0 ≠ cfg.posB28.val ∧ 0 ≠ cfg.posFsel.val ∧ 0 ≠ cfg.posPsel.val) ∧
      ∃ t, exec (.power 1#64) (ready 0x20C0#16) = .next t :=
  ⟨by decide, exec_answers _ _⟩

theorem witness_EachFieldHasItsWriters :
    after (exec (.setFreq 0#2 0x3FF0000000000000#64) (ready 0x20C0#16)) fresh ≠ ready 0x20C0#16 ∧
      (after (exec (.setFreq 0#2 0x3FF0000000000000#64) (ready 0x20C0#16)) fresh).freq0 ≠ (ready 0x20C0#16).freq0 := by
  decide +kernel

theorem witness_AccessorsChangeOnlyTheResponse : ∃ t, exec (.getFreq 3#2) (ready 0x20C0#16) = .next t := exec_answers _ _

theorem witness_OnlyResetClearsInitAndPin :
    (∃ t, step { ready 0x20C0#16 with inputs := [.clock (offer 0x20#8 1#64)] } = .next t) ∧
      ([Input.clock (offer 0x20#8 1#64)] = .clock (offer 0x20#8 1#64) :: [] ∧ (offer 0x20#8 1#64).rst = false) ∧
      (ready 0x20C0#16).init = true ∧ (ready 0x20C0#16).selOe = true :=
  ⟨⟨_, rfl⟩, ⟨rfl, rfl⟩, rfl, rfl⟩

theorem witness_EveryStepKeepsInvariant :
    Inv (ready 0x2CC0#16) ∧ Inv fresh ∧ ∃ t, step (ready 0x2CC0#16) = .next t :=
  ⟨ready_inv, fresh_inv, ⟨_, rfl⟩⟩

theorem witness_ClockEdgesRefineTransactions :
    quiet.rst = false ∧ (during (.hi 0x2000#16 true)).seq ≠ .idle ∧ fresh.seq = .idle ∧ quiet.reqValid = false ∧
      (offer 0x10#8 0#64).reqValid = true ∧ (offer 0x10#8 0#64).rst = false := by decide

/-- A transport that raises `tx_done` at every third edge only, with this offered at edge 0. -/
def slow (p : Pins) (n : Nat) : Pins :=
  if n = 0 then p else if n % 3 = 2 then done else quiet

theorem slow_answers (p : Pins) (s : State) : AnswersEveryByte (slow p) s := fun n _ =>
  ⟨3 * (n / 3) + 2, by omega, by
    have h : (3 * (n / 3) + 2) % 3 = 2 := by omega
    simp [slow, h, done]⟩

theorem slow_no_reset (p : Pins) (hp : p.rst = false) (n : Nat) : (slow p n).rst = false := by
  unfold slow
  split
  · exact hp
  · split <;> rfl

theorem witness_AcceptedRequestCompletes :
    (∀ n, (slow quiet n).rst = false) ∧ AnswersEveryByte (slow quiet) (during (.hi 0x2000#16 true)) ∧
      (during (.hi 0x2000#16 true)).seq ≠ .idle :=
  ⟨slow_no_reset quiet rfl, slow_answers quiet _, by decide⟩

theorem witness_AcceptedRequestAnswersAsExec :
    (∀ n, (slow (offer 0x10#8 0#64) n).rst = false) ∧ AnswersEveryByte (slow (offer 0x10#8 0#64)) fresh ∧
      fresh.seq = .idle ∧ (slow (offer 0x10#8 0#64) 0).reqValid = true ∧
      (∃ t, exec (decodeRequest (slow (offer 0x10#8 0#64) 0).req) { fresh with resp := none } = .next t) ∧
      (∃ t, exec (.getMode) { ready 0x20C0#16 with resp := none } = .next t ∧ t.trace = (ready 0x20C0#16).trace) ∧
      ∃ t, exec (.power 1#64) { ready 0x20C0#16 with resp := none } = .next t ∧ newFrames (ready 0x20C0#16) t ≠ [] :=
  ⟨slow_no_reset _ rfl, slow_answers _ _, rfl, rfl, exec_answers _ _, ⟨_, rfl, rfl⟩, ⟨_, rfl, by decide⟩⟩

theorem witness_BusyBlockIgnoresRequestPort :
    (during (.gap 0)).seq ≠ .idle ∧ quiet.rst = (offer 0x10#8 0#64).rst ∧ quiet.txDone = (offer 0x10#8 0#64).txDone := by decide

theorem witness_SetupTimeIsKept :
    ((offer 0x20#8 1#64).rst = false ∧ (ready 0x20C0#16).selN = true ∧
      (clockEdge (offer 0x20#8 1#64) (ready 0x20C0#16)).selN = false) ∧
    (during (.setup 0x2000#16 0)).cfg.Wf ∧ (∀ p ∈ [quiet], p.rst = false) ∧ (∀ p ∈ [quiet, quiet], p.rst = false) ∧
      (during (.setup 0x2000#16 0)).seq = .busy (some (.setup 0x2000#16 0)) [] ∧
      [quiet].length < (during (.setup 0x2000#16 0)).cfg.nSu ∧ [quiet, quiet].length = (during (.setup 0x2000#16 0)).cfg.nSu := by
  decide

theorem witness_TwoBytesAreStarted :
    (∀ x ∈ [quiet], x.rst = false ∧ x.txDone = false) ∧ done.rst = false ∧ done.txDone = true ∧
      (during (.hi 0x2000#16 true)).seq = .busy (some (.hi 0x2000#16 true)) [] ∧
      (during (.lo 0x2000#16 true)).seq = .busy (some (.lo 0x2000#16 true)) [] := by decide

theorem witness_HoldTimeIsKept :
    (done.rst = false ∧ done.txDone = true ∧
      (during (.lo 0x2000#16 false)).seq = .busy (some (.lo 0x2000#16 false)) []) ∧
    (during (.hold 0x2000#16 0)).cfg.Wf ∧ (∀ p ∈ [quiet, quiet], p.rst = false) ∧
      (during (.hold 0x2000#16 0)).seq = .busy (some (.hold 0x2000#16 0)) [] ∧
      [quiet].length < (during (.hold 0x2000#16 0)).cfg.nH ∧ [quiet, quiet].length = (during (.hold 0x2000#16 0)).cfg.nH := by
  decide

theorem witness_GapAndWaitAreKept :
    (quiet.rst = false ∧ ({ fresh with seq := .busy (some .selEnable) [.waitInit] } : State).seq =
      .busy (some .selEnable) [.waitInit]) ∧
    (fresh.cfg.Wf ∧ (offer 0x10#8 0#64).rst = false ∧ fresh.seq = .idle ∧ (offer 0x10#8 0#64).reqValid = true ∧
      (offer 0x10#8 0#64).req.op = 0x1#4 ∧ [quiet, quiet].length ≤ fresh.cfg.nInit ∧
      [quiet, quiet, quiet].length = fresh.cfg.nInit + 1) ∧
    (∀ p ∈ [quiet], p.rst = false) ∧ (during (.gap 0)).seq = .busy (some (.gap 0)) [] ∧
      ([] : List Pins).length < (during (.gap 0)).cfg.nGap ∧ (during (.wait 0)).seq = .busy (some (.wait 0)) [] ∧
      [quiet].length < (during (.wait 0)).cfg.nInit := by decide

theorem witness_NoFrameIsShorter :
    (during (.setup 0x2000#16 0)).cfg.Wf ∧ (∀ p ∈ [quiet, quiet, done, done, quiet, quiet], p.rst = false) ∧
      (during (.setup 0x2000#16 0)).seq = .busy (some (.setup 0x2000#16 0)) [] ∧
      [quiet, quiet, done, done, quiet, quiet].length <
        (during (.setup 0x2000#16 0)).cfg.nSu + 2 + (during (.setup 0x2000#16 0)).cfg.nH +
          (during (.setup 0x2000#16 0)).cfg.nGap := by decide

theorem witness_StrayTxDoneIsIgnored :
    quiet.rst = done.rst ∧ quiet.reqValid = done.reqValid ∧ quiet.req = done.req ∧ (during (.gap 0)).txByte = none := by decide

theorem witness_SilentTransportStalls :
    (∀ x ∈ [quiet, quiet], x.rst = false ∧ x.txDone = false) ∧
      (during (.hi 0x2000#16 true)).seq = .busy (some (.hi 0x2000#16 true)) [] ∧
      (during (.lo 0x2000#16 false)).seq = .busy (some (.lo 0x2000#16 false)) [] := by decide

end Sys2Proof.Tests
end

section
/-! Encodings (30_encoding.md R48 to R58): a tag with data below it, field by field; the target the address map gives a tagged
word; and the two directions between an instruction and its code. -/

namespace Sys2Proof

/-! ### A tag with data below it -/

/-- Words with the same field have the same bits in it. -/
theorem getLsbD_eq_of_extractLsb'_eq {k m j : Nat} {w u : Word} (h : w.extractLsb' k m = u.extractLsb' k m) (hk : k ≤ j)
    (hj : j < k + m) : w.getLsbD j = u.getLsbD j := by
  have hb := congrArg (fun v => v.getLsbD (j - k)) h
  simpa only [BitVec.getLsbD_extractLsb', show j - k < m by omega, show k + (j - k) = j by omega, decide_true,
    Bool.true_and] using hb

/-- A bit of a tag's empty data field. -/
theorem getLsbD_of_extractLsb'_zero {n j : Nat} {tag : Word} (h : tag.extractLsb' 0 n = 0) (hj : j < n) :
    tag.getLsbD j = false := by
  have hz : tag.extractLsb' 0 n = (0#16).extractLsb' 0 n := by rw [h, BitVec.extractLsb'_zero]; rfl
  simpa using getLsbD_eq_of_extractLsb'_eq hz (Nat.zero_le j) (by omega)

/-- The data field of a tagged word is the data. -/
theorem extractLsb'_tag_or_data {n : Nat} {tag : Word} (hn : n ≤ 16) (ht : tag.extractLsb' 0 n = 0) (x : BitVec n) :
    (tag ||| x.zeroExtend 16).extractLsb' 0 n = x := by
  apply BitVec.eq_of_getLsbD_eq
  intro j hj
  rw [BitVec.getLsbD_extractLsb', Nat.zero_add, BitVec.getLsbD_or, getLsbD_of_extractLsb'_zero ht hj]
  simp [hj, show j < 16 by omega]

/-- Above its data field a tagged word is the tag. -/
theorem extractLsb'_tag_or_above {n k : Nat} (m : Nat) (tag : Word) (x : BitVec n) (hk : n ≤ k) :
    (tag ||| x.zeroExtend 16).extractLsb' k m = tag.extractLsb' k m := by
  apply BitVec.eq_of_getLsbD_eq
  intro j hj
  simp [hj, BitVec.getLsbD_of_ge x (k + j) (by omega)]

/-- A word with a tag's bits is the tag with the word's own data field. -/
theorem tag_or_extractLsb' {n m : Nat} {tag w : Word} (hn : n + m = 16) (ht : tag.extractLsb' 0 n = 0)
    (hw : w.extractLsb' n m = tag.extractLsb' n m) : tag ||| (w.extractLsb' 0 n).zeroExtend 16 = w := by
  apply BitVec.eq_of_getLsbD_eq
  intro j hj
  rw [BitVec.getLsbD_or]
  by_cases hjn : j < n
  · rw [getLsbD_of_extractLsb'_zero ht hjn]
    simp [hj, hjn]
  · rw [← getLsbD_eq_of_extractLsb'_eq hw (by omega) (by omega)]
    simp [hjn]

/-- Tags with empty data fields and the same tag bits are the same tag. -/
theorem tag_eq_of_extractLsb' {n m : Nat} {t u : Word} (hn : n + m = 16) (ht : t.extractLsb' 0 n = 0)
    (hu : u.extractLsb' 0 n = 0) (h : u.extractLsb' n m = t.extractLsb' n m) : t = u := by
  simpa [hu] using tag_or_extractLsb' hn ht h

/-- Words that agree in a field agree in every part of it. -/
theorem extractLsb'_congr_sub {k m k' m' : Nat} {w u : Word} (h : w.extractLsb' k m = u.extractLsb' k m) (hk : k ≤ k')
    (hm : k' + m' ≤ k + m) : w.extractLsb' k' m' = u.extractLsb' k' m' := by
  apply BitVec.eq_of_getLsbD_eq
  intro j hj
  simp only [BitVec.getLsbD_extractLsb', hj, decide_true, Bool.true_and]
  exact getLsbD_eq_of_extractLsb'_eq h (by omega) (by omega)

/-- A 14-bit data field with `w[13:12] = 0b00` is its low 12 bits (R55). -/
theorem zeroExtend_extractLsb'_of_high_zero {w : Word} (h : w.extractLsb' 12 2 = 0b00#2) :
    (w.extractLsb' 0 12).zeroExtend 14 = w.extractLsb' 0 14 := by
  have hz : w.extractLsb' 12 2 = (0#16).extractLsb' 12 2 := h
  apply BitVec.eq_of_getLsbD_eq
  intro j hj
  by_cases hj12 : j < 12
  · simp [hj, hj12]
  · have hb : w.getLsbD j = false := by simpa using getLsbD_eq_of_extractLsb'_eq hz (by omega) (by omega)
    simp only [BitVec.truncate_eq_setWidth, BitVec.getLsbD_setWidth, BitVec.getLsbD_extractLsb', Nat.zero_add, hb, hj12,
      decide_false, Bool.and_false]

/-! ### The positions and tags of a legal configuration (R10) -/

theorem Config.Wf.pos_injective {c : Config} (h : c.Wf) : Function.Injective c.pos := fun _ _ => h.pos_inj

theorem Config.Wf.freqTag_data {c : Config} (h : c.Wf) (i : Bank) : (c.freqTag i).extractLsb' 0 14 = 0 :=
  (h.freqTag i).1

theorem Config.Wf.freqTag_data12 {c : Config} (h : c.Wf) (i : Bank) : (c.freqTag i).extractLsb' 0 12 = 0 := by
  have hz : (c.freqTag i).extractLsb' 0 14 = (0#16).extractLsb' 0 14 := h.freqTag_data i
  exact extractLsb'_congr_sub hz (by omega) (by omega)

theorem Config.Wf.phaseTag_data {c : Config} (h : c.Wf) (i : Bank) : (c.phaseTag i).extractLsb' 0 12 = 0 :=
  (h.phaseTag i).1

/-- The two frequency tags differ in their top two bits. -/
theorem Config.Wf.freqTag_top_ne {c : Config} (h : c.Wf) :
    c.freqTag1.extractLsb' 14 2 ≠ c.freqTag0.extractLsb' 14 2 := fun e =>
  h.freqTag_ne (tag_eq_of_extractLsb' rfl (h.freqTag_data .b0) (h.freqTag_data .b1) e)

/-- The two phase tags differ in their top four bits. -/
theorem Config.Wf.phaseTag_top_ne {c : Config} (h : c.Wf) :
    c.phaseTag1.extractLsb' 12 4 ≠ c.phaseTag0.extractLsb' 12 4 := fun e =>
  h.phaseTag_ne (tag_eq_of_extractLsb' rfl (h.phaseTag_data .b0) (h.phaseTag_data .b1) e)

/-- No frequency tag's top bits are a phase tag's, nor a command word's. -/
theorem Config.Wf.ne_freqTag_top {c : Config} (h : c.Wf) (i : Bank) {v : BitVec 2} (hv : v = 0b11#2 ∨ v = 0b00#2) :
    v ≠ (c.freqTag i).extractLsb' 14 2 := by
  obtain ⟨_, h00, h11⟩ := h.freqTag i
  rcases hv with rfl | rfl
  exacts [Ne.symm h11, Ne.symm h00]

/-- A word with a phase tag's top four bits has the top bits `0b11`. -/
theorem Config.Wf.top_of_phaseTag {c : Config} (h : c.Wf) {w : Word} {i : Bank}
    (hw : w.extractLsb' 12 4 = (c.phaseTag i).extractLsb' 12 4) : w.extractLsb' 14 2 = 0b11#2 :=
  (extractLsb'_congr_sub hw (by omega) (by omega)).trans (h.phaseTag i).2

/-! ### The address map (R33) -/

/-- A word with a frequency tag's top bits goes to that register. -/
theorem wireTarget_freq {c : Config} (h : c.Wf) {w : Word} {i : Bank}
    (hw : w.extractLsb' 14 2 = (c.freqTag i).extractLsb' 14 2) : wireTarget c w = some (.freq i) := by
  cases i with
  | b0 => exact if_pos hw
  | b1 =>
    have h0 : w.extractLsb' 14 2 ≠ c.freqTag0.extractLsb' 14 2 := fun e => h.freqTag_top_ne (hw.symm.trans e)
    exact (if_neg h0).trans (if_pos hw)

/-- A word with a phase tag's top bits goes to that register. -/
theorem wireTarget_phase {c : Config} (h : c.Wf) {w : Word} {i : Bank}
    (hw : w.extractLsb' 12 4 = (c.phaseTag i).extractLsb' 12 4) : wireTarget c w = some (.phase i) := by
  have ht := h.top_of_phaseTag hw
  have hf0 : w.extractLsb' 14 2 ≠ c.freqTag0.extractLsb' 14 2 := h.ne_freqTag_top .b0 (.inl ht)
  have hf1 : w.extractLsb' 14 2 ≠ c.freqTag1.extractLsb' 14 2 := h.ne_freqTag_top .b1 (.inl ht)
  unfold wireTarget
  rw [if_neg hf0, if_neg hf1]
  cases i with
  | b0 => exact if_pos hw
  | b1 =>
    have hp0 : w.extractLsb' 12 4 ≠ c.phaseTag0.extractLsb' 12 4 := fun e => h.phaseTag_top_ne (hw.symm.trans e)
    exact (if_neg hp0).trans (if_pos hw)

/-- A word with the top bits `0b00` goes to the command register. -/
theorem wireTarget_command {c : Config} (h : c.Wf) {w : Word} (hw : w.extractLsb' 14 2 = 0b00#2) :
    wireTarget c w = some .command := by
  have hf0 : w.extractLsb' 14 2 ≠ c.freqTag0.extractLsb' 14 2 := h.ne_freqTag_top .b0 (.inr hw)
  have hf1 : w.extractLsb' 14 2 ≠ c.freqTag1.extractLsb' 14 2 := h.ne_freqTag_top .b1 (.inr hw)
  have hp : ∀ i, w.extractLsb' 12 4 ≠ (c.phaseTag i).extractLsb' 12 4 := fun i e =>
    absurd (hw.symm.trans (h.top_of_phaseTag e)) (by decide)
  have hp0 : w.extractLsb' 12 4 ≠ c.phaseTag0.extractLsb' 12 4 := hp .b0
  have hp1 : w.extractLsb' 12 4 ≠ c.phaseTag1.extractLsb' 12 4 := hp .b1
  unfold wireTarget
  rw [if_neg hf0, if_neg hf1, if_neg hp0, if_neg hp1, if_pos hw]

/-- Inversion: a word that goes to a frequency register has its tag bits. -/
theorem extractLsb'_of_wireTarget_freq {c : Config} {w : Word} {i : Bank} (h : wireTarget c w = some (.freq i)) :
    w.extractLsb' 14 2 = (c.freqTag i).extractLsb' 14 2 := by
  unfold wireTarget at h
  split_ifs at h with h0 h1 <;> cases h
  exacts [h0, h1]

/-- Inversion: a word that goes to a phase register has its tag bits. -/
theorem extractLsb'_of_wireTarget_phase {c : Config} {w : Word} {i : Bank} (h : wireTarget c w = some (.phase i)) :
    w.extractLsb' 12 4 = (c.phaseTag i).extractLsb' 12 4 := by
  unfold wireTarget at h
  split_ifs at h with _ _ h0 h1 <;> cases h
  exacts [h0, h1]

/-! ### The tagged words -/

/-- A FREQ_HI word is its tag with the 12 bits below it (R55). -/
theorem freqHighWord_eq (c : Config) (i : Bank) (x : BitVec 12) : freqHighWord c i x = c.freqTag i ||| x.zeroExtend 16 := by
  simp [freqHighWord, freqWord]

/-- FREQ_LO of either register is decoded from its own word. -/
theorem decodeWire_freqWord {c : Config} (h : c.Wf) (i : Bank) (x : BitVec 14) :
    decodeWire c .freqLow (freqWord c i x) = .ok (freqLowInstr i x) := by
  have ht : wireTarget c (freqWord c i x) = some (.freq i) :=
    wireTarget_freq h (extractLsb'_tag_or_above 2 _ x (Nat.le_refl 14))
  simp only [decodeWire, ht, decodeFreqWord]
  rw [freqWord, extractLsb'_tag_or_data (by decide) (h.freqTag_data i)]

/-- FREQ_HI of either register is decoded from its own word. -/
theorem decodeWire_freqHighWord {c : Config} (h : c.Wf) (i : Bank) (x : BitVec 12) :
    decodeWire c .freqHigh (freqHighWord c i x) = .ok (freqHighInstr i x) := by
  rw [freqHighWord_eq]
  have ht : wireTarget c (c.freqTag i ||| x.zeroExtend 16) = some (.freq i) :=
    wireTarget_freq h (extractLsb'_tag_or_above 2 _ x (by decide))
  have hz : (c.freqTag i).extractLsb' 0 14 = (0#16).extractLsb' 0 14 := h.freqTag_data i
  have hb : (c.freqTag i ||| x.zeroExtend 16).extractLsb' 12 2 = 0b00#2 :=
    (extractLsb'_tag_or_above 2 _ x (Nat.le_refl 12)).trans (extractLsb'_congr_sub hz (by decide) (by decide))
  simp only [decodeWire, ht, decodeFreqWord]
  rw [if_pos hb, extractLsb'_tag_or_data (by decide) (h.freqTag_data12 i)]

/-- The phase word's target and data field. -/
theorem wireTarget_phaseWord {c : Config} (h : c.Wf) (i : Bank) (p : PhaseVal) :
    wireTarget c (phaseWord c i p) = some (.phase i) ∧ (phaseWord c i p).extractLsb' 0 12 = p :=
  ⟨wireTarget_phase h (extractLsb'_tag_or_above 4 _ p (Nat.le_refl 12)),
    extractLsb'_tag_or_data (by decide) (h.phaseTag_data i) p⟩

/-! ### Command words -/

/-- A shifted one below bit 14 leaves the top two bits 0. -/
theorem bit_below_top (p : Fin 14) : (1#16 <<< p.val).extractLsb' 14 2 = 0b00#2 := by
  revert p
  decide

/-- The bits of a shifted one, as SetBit's lemma gives them. -/
theorem getLsbD_bit (p j : Nat) (hp : p < 16) : (1#16 <<< p).getLsbD j = decide (j = p) := by
  have h := Machine.setBit_getLsbD 0#16 p true j hp
  simpa [Machine.setBit] using h

/-- The bits the nine fields stand at, RESET included (R16). -/
theorem getLsbD_cmdMask_or_reset (c : Config) (j : Nat) :
    (c.cmdMask ||| (1#16 <<< c.posReset.val)).getLsbD j = true ↔ ∃ f, (c.pos f).val = j := by
  have hb : ∀ f, (1#16 <<< (c.pos f).val).getLsbD j = decide (j = (c.pos f).val) := fun f => getLsbD_bit _ j (by omega)
  have hr : (1#16 <<< c.posReset.val).getLsbD j = decide (j = c.posReset.val) := hb .reset
  have ex : (∃ f, (c.pos f).val = j) ↔ ∃ f ∈ CmdField.all, j = (c.pos f).val :=
    ⟨fun ⟨f, h⟩ => ⟨f, by cases f <;> decide, h.symm⟩, fun ⟨f, _, h⟩ => ⟨f, h.symm⟩⟩
  rw [ex]
  simp only [Config.cmdMask, CmdField.all, List.foldl, reduceCtorEq, if_false, if_true, BitVec.getLsbD_or, hb, hr,
    BitVec.getLsbD_zero, Bool.or_eq_true, decide_eq_true_eq, List.exists_mem_cons_iff, List.not_mem_nil, false_and,
    exists_false, or_false, Bool.false_or]
  simp only [Config.pos]
  tauto

/-- R17 bit by bit: every bit at which no field stands is 0. -/
theorem Config.reservedClear_iff (c : Config) (w : Word) :
    c.reservedClear w = true ↔ ∀ j, w.getLsbD j = true → ∃ f, (c.pos f).val = j := by
  rw [Config.reservedClear, beq_iff_eq]
  constructor
  · intro h j hj
    rw [← getLsbD_cmdMask_or_reset]
    have hb := congrArg (fun v => v.getLsbD j) h
    by_contra hm
    have hj16 : j < 16 := by
      by_contra hlt
      simp [BitVec.getLsbD_of_ge w j (by omega)] at hj
    rw [Bool.not_eq_true] at hm
    rw [BitVec.getLsbD_and, BitVec.getLsbD_not, hm, hj] at hb
    simp [hj16] at hb
  · intro h
    apply BitVec.eq_of_getLsbD_eq
    intro j hj
    rw [BitVec.getLsbD_and, BitVec.getLsbD_not, BitVec.getLsbD_zero]
    cases hw : w.getLsbD j with
    | false => rfl
    | true => simp [(getLsbD_cmdMask_or_reset c j).mpr (h j hw)]

/-- A word with the reserved positions 0 has the top bits `0b00`: no field stands above bit 13. -/
theorem Config.top_of_reservedClear {c : Config} {w : Word} (h : c.reservedClear w = true) :
    w.extractLsb' 14 2 = 0b00#2 := by
  apply BitVec.eq_of_getLsbD_eq
  intro j hj
  rw [BitVec.getLsbD_extractLsb', BitVec.getLsbD_zero]
  cases hw : w.getLsbD (14 + j) with
  | false => simp
  | true =>
    obtain ⟨f, hf⟩ := (c.reservedClear_iff w).mp h _ hw
    omega

/-- The reset word's top bits are `0b00` too (R57). -/
theorem extractLsb'_resetWord (c : Config) : (resetWord c).extractLsb' 14 2 = 0b00#2 := by
  rw [resetWord, BitVec.extractLsb'_or, bit_below_top, bit_below_top]
  rfl

/-- The reset word's RESET bit is 1 (R57). -/
theorem getLsbD_resetWord (c : Config) : (resetWord c).getLsbD c.posReset.val = true := by
  rw [resetWord, BitVec.getLsbD_or, getLsbD_bit _ _ (by omega)]
  simp

/-! ### Requests -/

/-- The header gives its operation code and its index back (R48). -/
theorem requestOf_header (op : BitVec 4) (i : BitVec 2) (d : Data) :
    requestOf (op ++ (0b00#2 ++ i)) d = { op := op, idx := i, data := d } := by
  have h : (op ++ (0b00#2 ++ i)).extractLsb' 4 4 = op ∧ (op ++ (0b00#2 ++ i)).extractLsb' 0 2 = i := by
    revert op i
    decide
  simp only [requestOf, h]

/-- A header with this code decodes as the request with this code. -/
theorem decode_header (c : Config) (op : BitVec 4) (i : BitVec 2) (d : Data) :
    decode c (.request (op ++ (0b00#2 ++ i)) d) = .ok (decodeRequest { op := op, idx := i, data := d }) :=
  congrArg (fun r => Except.ok (decodeRequest r)) (requestOf_header op i d)

/-! ### Decode and encode are inverse -/

/-- Settles O8: a request by its header, a wire word by its tag bits and position. -/
theorem decodeInvertsEncode : Obligations.DecodeInvertsEncode := by
  intro c i hc hi
  cases i with
  | init => exact decode_header c 0x1#4 0#2 _
  | power d => exact decode_header c 0x2#4 0#2 d
  | setMode d => exact decode_header c 0x3#4 0#2 d
  | setFreq i d => exact decode_header c 0x4#4 i d
  | setPhase i d => exact decode_header c 0x5#4 i d
  | setFreqOut i => exact decode_header c 0x6#4 i _
  | setPhaseOut i => exact decode_header c 0x7#4 i _
  | getFreq i => exact decode_header c 0x8#4 i _
  | getPhase i => exact decode_header c 0x9#4 i _
  | getFreqOut => exact decode_header c 0xA#4 0#2 _
  | getPhaseOut => exact decode_header c 0xB#4 0#2 _
  | getMode => exact decode_header c 0xC#4 0#2 _
  | reserved0 => exact decode_header c 0x0#4 0#2 _
  | reservedD => exact decode_header c 0xD#4 0#2 _
  | reservedE => exact decode_header c 0xE#4 0#2 _
  | reservedF => exact decode_header c 0xF#4 0#2 _
  | cmd w =>
    obtain ⟨hres, hrst⟩ := Bool.and_eq_true_iff.mp hi
    have hne : w ≠ resetWord c := by
      rintro rfl
      simp [Config.resetClear, getLsbD_resetWord] at hrst
    simp only [encode, decode, decodeWire, wireTarget_command hc (Config.top_of_reservedClear hres), if_neg hne]
  | resetw => simp only [encode, decode, decodeWire, wireTarget_command hc (extractLsb'_resetWord c), if_true]
  | freqLo0 l => exact decodeWire_freqWord hc .b0 l
  | freqHi0 x => exact decodeWire_freqHighWord hc .b0 x
  | freqLo1 l => exact decodeWire_freqWord hc .b1 l
  | freqHi1 x => exact decodeWire_freqHighWord hc .b1 x
  | phase0 p =>
    obtain ⟨ht, hp⟩ := wireTarget_phaseWord hc .b0 p
    simp only [encode, decode, decodeWire, ht, hp]
  | phase1 p =>
    obtain ⟨ht, hp⟩ := wireTarget_phaseWord hc .b1 p
    simp only [encode, decode, decodeWire, ht, hp]

/-- Inversion: what a frequency word is read as, at any position. -/
theorem decodeFreqWord_cases {slot : Slot} {b : Bank} {w : Word} {i : Instr} (h : decodeFreqWord slot b w = .ok i) :
    i = freqLowInstr b (w.extractLsb' 0 14) ∨ w.extractLsb' 12 2 = 0b00#2 ∧ i = freqHighInstr b (w.extractLsb' 0 12) := by
  cases slot with
  | freqLow => exact .inl (Except.ok.inj h).symm
  | freqHigh =>
    simp only [decodeFreqWord] at h
    split_ifs at h with hz
    exact .inr ⟨hz, (Except.ok.inj h).symm⟩
  | any =>
    simp only [decodeFreqWord] at h
    split_ifs at h with hz
    · exact .inr ⟨hz, (Except.ok.inj h).symm⟩
    · exact .inl (Except.ok.inj h).symm

theorem encode_freqLowInstr (c : Config) (b : Bank) (x : BitVec 14) :
    encode c (freqLowInstr b x) = .wire .freqLow (freqWord c b x) := by
  cases b <;> rfl

theorem encode_freqHighInstr (c : Config) (b : Bank) (x : BitVec 12) :
    encode c (freqHighInstr b x) = .wire .freqHigh (freqHighWord c b x) := by
  cases b <;> rfl

/-- A frequency word is its register's tag with its own data (R55). -/
theorem freqWord_extractLsb' {c : Config} (hc : c.Wf) {w : Word} {b : Bank} (ht : wireTarget c w = some (.freq b)) :
    freqWord c b (w.extractLsb' 0 14) = w :=
  tag_or_extractLsb' (n := 14) (m := 2) rfl (hc.freqTag_data b) (extractLsb'_of_wireTarget_freq ht)

/-- A phase word is its register's tag with its own data (R56). -/
theorem phaseWord_extractLsb' {c : Config} (hc : c.Wf) {w : Word} {b : Bank} (ht : wireTarget c w = some (.phase b)) :
    phaseWord c b (w.extractLsb' 0 12) = w :=
  tag_or_extractLsb' (n := 12) (m := 4) rfl (hc.phaseTag_data b) (extractLsb'_of_wireTarget_phase ht)

/-- Settles O9: a word that has a target is the target's tag with the word's own data; a command word stands for itself. -/
theorem encodeInvertsWireDecode : Obligations.EncodeInvertsWireDecode := by
  intro c slot w i hc h
  unfold decodeWire at h
  split at h
  next b ht =>
    rcases decodeFreqWord_cases h with rfl | ⟨hz, rfl⟩
    · exact ⟨.freqLow, by rw [encode_freqLowInstr, freqWord_extractLsb' hc ht]⟩
    · refine ⟨.freqHigh, ?_⟩
      rw [encode_freqHighInstr, freqHighWord, zeroExtend_extractLsb'_of_high_zero hz, freqWord_extractLsb' hc ht]
  next ht =>
    cases h
    exact ⟨.any, congrArg _ (phaseWord_extractLsb' hc ht)⟩
  next ht =>
    cases h
    exact ⟨.any, congrArg _ (phaseWord_extractLsb' hc ht)⟩
  next =>
    split_ifs at h with hr <;> cases h
    · exact ⟨.any, congrArg _ hr.symm⟩
    · exact ⟨.any, rfl⟩
  next => cases h

end Sys2Proof
end

section
/-! The two levels of a step (00_scope.md R8): what a transaction-level step runs, and what a clock edge does to the
transaction-level state it stands for. -/

namespace Sys2Proof.Machine

/-! ### SetBit and the waits -/

/-- Settles O17, by comparing the bit's index with the replaced one's. -/
theorem setBitReplacesOneBit : Obligations.SetBitReplacesOneBit :=
  fun w p b j hp => setBit_getLsbD w p b j hp

/-- R10's division-free bound is the ceiling over the rationals. -/
theorem ceil_le_of_mul_le {k num den n : Nat} (hden : 0 < den) (h : k * num ≤ n * (1000000 * den)) :
    ⌈(k / 1000000 : ℚ) * ((num : ℚ) / den)⌉ ≤ (n : ℤ) := by
  have hq : (k * num : ℚ) ≤ n * (1000000 * den) := by exact_mod_cast h
  have hd : (0 : ℚ) < 1000000 * den := by positivity
  rw [Int.ceil_le, div_mul_div_comm, div_le_iff₀ hd]
  exact_mod_cast hq

/-- Settles O56, from R10's division-free bounds. -/
theorem waitCountsMeetSourceBounds : Obligations.WaitCountsMeetSourceBounds := by
  intro c hc
  obtain ⟨-, -, -, -, -, -, -, -, -, -, hden, hsu, hh, hinit, hgap⟩ := id hc
  exact ⟨ceil_le_of_mul_le hden hsu, ceil_le_of_mul_le hden hh, ceil_le_of_mul_le hden hinit, hgap, hc.nSu_pos, hc.nH_pos⟩

/-! ### What a step runs -/

/-- With a request presented to an IDLE block, the step is the request's instruction. -/
theorem step_request {s : State} {r : Request} {rest : List Input} (hs : s.seq = .idle) (hi : s.inputs = .request r :: rest) :
    step s = exec (decodeRequest r) { s with inputs := rest, resp := none } := by
  simp only [step, fetch, hi, hs]

/-- A clock edge at the head of the inputs is the step. -/
theorem step_clock {s : State} {p : Pins} {rest : List Input} (hi : s.inputs = .clock p :: rest) :
    step s = .next (clockEdge p { s with inputs := rest }) := by
  simp only [step, fetch, hi]

/-- A busy sequencer with no clock edge before it fetches from its queue. -/
theorem fetch_busy {s : State} {cur : Option Phase} {q : List Micro} (hs : s.seq = .busy cur q)
    (hi : ∀ p rest, s.inputs ≠ .clock p :: rest) : fetch s = fetchQueue cur q s := by
  match h : s.inputs with
  | [] => simp only [fetch, h, hs]
  | .request r :: rest => simp only [fetch, h, hs]
  | .clock p :: rest => exact absurd h (hi p rest)

/-- A word of the queue that decodes is run as its instruction. -/
theorem step_word {s u : State} {cur : Option Phase} {q : List Micro} {slot : Slot} {w : Word} {i : Instr}
    (hs : s.seq = .busy cur q) (hi : ∀ p rest, s.inputs ≠ .clock p :: rest) (hq : fetchQueue cur q s = fetchWord slot w u)
    (hw : decodeWire u.cfg slot w = .ok i) : step s = exec i u := by
  simp only [step, fetch_busy hs hi, hq, fetchWord, hw]

/-- Settles O3, one clause for each thing the fetch finds. -/
theorem stepRunsTheDecodedInstruction : Obligations.StepRunsTheDecodedInstruction :=
  ⟨fun _ _ _ hs hi => step_request hs hi,
    fun _ _ _ _ _ hs hi hw => step_word hs hi rfl hw,
    fun _ _ _ hs hi hw => step_word hs hi rfl hw,
    fun _ _ _ hi => step_clock hi⟩

/-! ### What a clock edge does to the settled state -/

/-- The settled state of an IDLE block. -/
theorem settled_idle {s : State} (hs : s.seq = .idle) : settled s = { s with resp := none } := by
  simp only [settled, pending, finishCurrent, hs, perform_nil]

/-- Between events. -/
theorem settled_between {s : State} {q : List Micro} (hs : s.seq = .busy none q) :
    settled s = { perform q s with seq := .idle, resp := none } := by
  simp only [settled, pending, finishCurrent, hs]

/-- During an event. -/
theorem settled_during {s : State} {ph : Phase} {q : List Micro} (hs : s.seq = .busy (some ph) q) :
    settled s = { perform q (finishPhase ph s) with seq := .idle, resp := none } := by
  simp only [settled, pending, finishCurrent, hs]

/-- Where the sequencer stands in a frame, or whether it waits, is not seen in the settled state. -/
theorem perform_quiet_setSeq (q : List Micro) (s : State) (x : Seq) :
    { perform q { s with seq := x } with seq := .idle, resp := none } =
      ({ perform q s with seq := .idle, resp := none } : State) := by
  rw [perform_setSeq]

/-- A phase that ends as the one before would have ended leaves the settled state. -/
theorem settled_setPhase {s : State} {ph ph' : Phase} {q : List Micro} (hs : s.seq = .busy (some ph) q)
    (h : finishPhase ph' { s with seq := .busy (some ph') q } = { finishPhase ph s with seq := .busy (some ph') q }) :
    settled { s with seq := .busy (some ph') q } = settled s := by
  rw [settled_during hs, settled_during (ph := ph') (q := q) rfl, h, perform_quiet_setSeq]

/-- The next cycle of the event in progress stands for the same settled state. -/
theorem settled_nextPhase {s : State} {ph : Phase} {q : List Micro} (d : Bool) (hs : s.seq = .busy (some ph) q) :
    settled (nextPhase d ph q s) = settled s := by
  have adv : finishPhase ph s = s → settled (advance q s) = settled s := fun h => by
    rw [settled_advance, settled_during hs, h]
  cases ph with
  | selEnable => exact adv rfl
  | wait n =>
    simp only [nextPhase]
    split_ifs
    exacts [adv rfl, settled_setPhase hs rfl]
  | setup w n =>
    simp only [nextPhase]
    split_ifs <;> exact settled_setPhase hs rfl
  | hi w first => cases d <;> exact settled_setPhase hs rfl
  | lo w first =>
    simp only [nextPhase]
    split_ifs
    · rw [settled_beginHold, settled_during hs]
      rfl
    · exact settled_setPhase hs rfl
  | hold w n =>
    simp only [nextPhase]
    split_ifs
    · rw [settled_during hs, settled_during (ph := .gap 0) (q := q) rfl]
      exact perform_quiet_setSeq q (emitFrame w s) _
    · exact settled_setPhase hs rfl
  | gap n =>
    simp only [nextPhase]
    split_ifs
    exacts [adv rfl, settled_setPhase hs rfl]
  | responding => rw [nextPhase, settled_advance, settled_during hs]; rfl

/-- While a request is in progress an edge changes nothing of the settled state. -/
theorem settled_clockEdge_busy {p : Pins} {s : State} (hr : p.rst = false) (hs : s.seq ≠ .idle) :
    settled (clockEdge p s) = settled s := by
  match h : s.seq with
  | .idle => exact absurd h hs
  | .busy none q => rw [clockEdge_between hr h, settled_advance, settled_between h]
  | .busy (some ph) q => rw [clockEdge_busy hr h, settled_nextPhase _ h]

/-- An idle edge changes nothing of the settled state. -/
theorem settled_clockEdge_idle {p : Pins} {s : State} (hr : p.rst = false) (hs : s.seq = .idle) (hv : p.reqValid = false) :
    settled (clockEdge p s) = settled s := by
  rw [clockEdge_idle hr hv hs, settled_idle hs, settled_idle (s := { s with resp := none }) hs]

/-- Quieting an IDLE block touches the response port only. -/
theorem quiet_of_idle {s : State} (hs : s.seq = .idle) :
    ({ s with seq := .idle, resp := none } : State) = { s with resp := none } := by
  rw [← hs]

/-- Accepting a request changes the settled state as the instruction does. -/
theorem settled_clockEdge_accept {p : Pins} {s t : State} (hr : p.rst = false) (hs : s.seq = .idle) (hv : p.reqValid = true)
    (ht : exec (decodeRequest p.req) { s with resp := none } = .next t) :
    settled (clockEdge p s) = { t with resp := none } := by
  rw [clockEdge_accept hr hv hs, accept, settled_advance, ← exec_next ht]
  exact quiet_of_idle (by rw [exec_next ht, perform_seq]; exact hs)

/-- A reset edge gives the reset state, already settled. -/
theorem settled_clockEdge_reset {p : Pins} (s : State) (hr : p.rst = true) : settled (clockEdge p s) = blockReset s := by
  rw [clockEdge_reset s hr]
  rfl

/-- Settles O48, one lemma per clause. -/
theorem clockEdgesRefineTransactions : Obligations.ClockEdgesRefineTransactions := by
  intro p s
  refine ⟨settled_clockEdge_busy, settled_clockEdge_idle, fun hr hs hv => ?_, settled_clockEdge_reset s⟩
  exact ⟨_, exec_eq_plan _ _, settled_clockEdge_accept hr hs hv (exec_eq_plan _ _)⟩

end Sys2Proof.Machine
end

section
/-! The invariant of the machine (10_state.md R17, R20, R24; 40_frame_controller.md R67, R71; 42_mode.md R77; 43_frequency.md
R89): its two halves, the consistency of what is settled and the select pin, each kept by every step. -/

namespace Sys2Proof.Machine

/-! ### The mirror's fields -/

/-- Setting a named field keeps the reserved positions 0 (R17). -/
theorem reservedClear_setBit {c : Config} {w : Word} (h : c.reservedClear w = true) (f : CmdField) (b : Bool) :
    c.reservedClear (setBit w (c.pos f).val b) = true := by
  rw [Config.reservedClear_iff] at h ⊢
  intro j hj
  rw [setBit_getLsbD _ _ _ _ (by omega)] at hj
  split_ifs at hj with hf
  exacts [⟨f, hf.symm⟩, h j hj]

/-- The empty mirror has the reserved positions 0. -/
theorem reservedClear_zero (c : Config) : c.reservedClear 0x0000#16 = true := by
  rw [Config.reservedClear_iff]
  simp

/-- Every line keeps the reserved positions 0. -/
theorem applyMicro_reservedClear (op : Micro) {s : State} (h : s.cfg.reservedClear s.cmd = true) :
    s.cfg.reservedClear (applyMicro op s).cmd = true := by
  cases op with
  | clearCmd => exact reservedClear_zero _
  | setBit f b => exact reservedClear_setBit h f b
  | holdSetBit f b => exact reservedClear_setBit h f b
  | setFreq i f => rw [applyMicro, writeFreq_cmd]; exact h
  | setPhase i p => rw [applyMicro, writePhase_cmd]; exact h
  | _ => exact h

theorem perform_reservedClear (q : List Micro) {s : State} (h : s.cfg.reservedClear s.cmd = true) :
    s.cfg.reservedClear (perform q s).cmd = true := by
  induction q generalizing s with
  | nil => exact h
  | cons op q ih =>
    have hop := applyMicro_reservedClear op h
    rw [← applyMicro_cfg op s] at hop
    simpa using ih hop

/-! ### Consistency looks at six fields -/

/-- Two states agree in what `Consistent` reads: the mirror and its caches, `st.init`, the pin's drive and the parameters. -/
structure SameControl (s t : State) : Prop where
  cmd : s.cmd = t.cmd
  fsel : s.fsel = t.fsel
  psel : s.psel = t.psel
  init : s.init = t.init
  selOe : s.selOe = t.selOe
  cfg : s.cfg = t.cfg

theorem Consistent.congr {s t : State} (hc : Consistent s) (h : SameControl s t) : Consistent t := by
  obtain ⟨h1, h2, h3, h4, h5, h6⟩ := h
  obtain ⟨c1, c2, c3, c4, c5, c6, c7⟩ := hc
  simp only [State.field, h1, h2, h3, h4, h5, h6] at c1 c2 c3 c4 c5 c6 c7
  exact ⟨c1, c2, c3, c4, c5, c6, c7⟩

theorem Consistent.setResp {s : State} (hc : Consistent s) (x : Option Response) : Consistent { s with resp := x } :=
  hc.congr ⟨rfl, rfl, rfl, rfl, rfl, rfl⟩

theorem SameControl.applyMicro {s t : State} (h : SameControl s t) (op : Micro) :
    SameControl (applyMicro op s) (applyMicro op t) := by
  obtain ⟨h1, h2, h3, h4, h5, h6⟩ := h
  cases op <;> constructor <;> simp [Machine.applyMicro, h1, h2, h3, h4, h5, h6]

theorem SameControl.perform {s t : State} (h : SameControl s t) (q : List Micro) :
    SameControl (perform q s) (perform q t) := by
  induction q generalizing s t with
  | nil => exact h
  | cons op q ih => exact ih (h.applyMicro op)

/-- What is left when the same lines have been performed and the block is quiet agrees too. -/
theorem SameControl.quiet {s t : State} (h : SameControl s t) (q : List Micro) :
    SameControl { Machine.perform q s with seq := .idle, resp := none }
      { Machine.perform q t with seq := .idle, resp := none } := by
  obtain ⟨h1, h2, h3, h4, h5, h6⟩ := h.perform q
  exact ⟨h1, h2, h3, h4, h5, h6⟩

/-! ### Every request keeps the block consistent -/

/-- The line, by itself, keeps a consistent block consistent: it writes a waveform bit, sets B28, writes a cache that has no
bit of the mirror, or writes neither mirror nor cache. -/
def Micro.keepsConsistent : Micro → Bool
  | .setBit .mode _ => true
  | .setBit .opbiten _ => true
  | .setBit .div2 _ => true
  | .setBit .b28 b => b
  | .setBit _ _ => false
  | .holdSetBit _ _ => false
  | .clearCmd => false
  | .setFsel _ => false
  | .setPsel _ => false
  | .setInit => false
  | .setFreq _ _ => true
  | .setPhase _ _ => true
  | .setMode _ => true
  | .countDraws _ => true
  | .selEnable => true
  | .waitInit => true
  | .emitCmd => true
  | .emit _ _ => true
  | .respond _ _ => true

section
variable {s : State}

/-- A field of the mirror after a line that sets a bit. -/
theorem field_setBit (hw : s.cfg.Wf) (f : CmdField) (b : Bool) (g : CmdField) :
    (applyMicro (.setBit f b) s).field g = if g = f then b else s.field g := by
  simp [applyMicro, State.field, hw.pos_injective.eq_iff]

/-- Setting a bit that no cache mirrors and that is neither RESET nor a sleep bit. -/
theorem consistent_setBit (hw : s.cfg.Wf) (hc : Consistent s) {f : CmdField} {b : Bool}
    (hf : (Micro.setBit f b).keepsConsistent = true) : Consistent (applyMicro (.setBit f b) s) := by
  have other : ∀ g, g ≠ f → (applyMicro (.setBit f b) s).field g = s.field g := fun g hg => by
    rw [field_setBit hw, if_neg hg]
  have ne : ∀ g, (g = .fsel ∨ g = .psel ∨ g = .reset ∨ g = .sleep1 ∨ g = .sleep12) → g ≠ f := by
    rintro g hg rfl
    rcases hg with rfl | rfl | rfl | rfl | rfl <;> cases hf
  exact
    { fsel := (other .fsel (ne _ (by simp))) ▸ hc.fsel
      psel := (other .psel (ne _ (by simp))) ▸ hc.psel
      reserved := applyMicro_reservedClear _ hc.reserved
      reset := (other .reset (ne _ (by simp))).trans hc.reset
      sleep := by rw [other .sleep1 (ne _ (by simp)), other .sleep12 (ne _ (by simp))]; exact hc.sleep
      b28 := fun hi => by
        rw [field_setBit hw]
        split_ifs with hg
        · subst hg; exact hf
        · exact hc.b28 hi
      pin := hc.pin }

/-- Each line of that kind keeps a consistent block consistent, and so do several. -/
theorem consistent_applyMicro (hw : s.cfg.Wf) (hc : Consistent s) {op : Micro} (hop : op.keepsConsistent = true) :
    Consistent (applyMicro op s) := by
  cases op with
  | setBit f b => exact consistent_setBit hw hc hop
  | setFreq i f => exact hc.congr (by constructor <;> simp [applyMicro])
  | setPhase i p => exact hc.congr (by constructor <;> simp [applyMicro])
  | selEnable =>
    obtain ⟨c1, c2, c3, c4, c5, c6, c7⟩ := hc
    exact ⟨c1, c2, c3, c4, c5, c6, fun _ => rfl⟩
  | clearCmd | holdSetBit | setFsel | setPsel | setInit => cases hop
  | _ => exact hc.congr ⟨rfl, rfl, rfl, rfl, rfl, rfl⟩

theorem consistent_perform (hw : s.cfg.Wf) (hc : Consistent s) {q : List Micro}
    (hq : q.all Micro.keepsConsistent = true) : Consistent (perform q s) := by
  induction q generalizing s with
  | nil => exact hc
  | cons op q ih =>
    obtain ⟨hop, hq⟩ := Bool.and_eq_true_iff.mp hq
    exact ih (by rwa [applyMicro_cfg]) (consistent_applyMicro hw hc hop) hq

/-- The pairs of lines that move coupled values together: the two sleep bits (R77), a select bit and its cache (R24). -/
theorem consistent_coupled (hw : s.cfg.Wf) (hc : Consistent s) {q : List Micro} (b : Bool)
    (hq : q = [.setBit .sleep1 b, .setBit .sleep12 b] ∨ q = [.setBit .fsel b, .setFsel b] ∨
      q = [.setBit .psel b, .setPsel b]) : Consistent (perform q s) := by
  have hres := perform_reservedClear q hc.reserved
  rw [← perform_cfg q s] at hres
  obtain ⟨c1, c2, c3, c4, c5, c6, c7⟩ := hc
  simp only [State.field] at c1 c2 c4 c5 c6
  rcases hq with rfl | rfl | rfl <;> refine ⟨?_, ?_, hres, ?_, ?_, ?_, c7⟩ <;>
    simp +contextual [applyMicro, State.field, hw.pos_injective.eq_iff, c1, c2, c4, c5, c6]

/-- INIT leaves a consistent block, whatever the mirror and the caches held. -/
theorem consistent_init (hw : s.cfg.Wf) (hres : s.cfg.reservedClear s.cmd = true) :
    Consistent (perform (passBody .init s) s) := by
  have hp := hw.pos_injective
  have hr := perform_reservedClear (passBody .init s) hres
  rw [← perform_cfg (passBody .init s) s] at hr
  refine ⟨?_, ?_, hr, ?_, ?_, ?_, ?_⟩ <;>
    simp [passBody, setFreqBody, setPhaseBody, setFreqOutBody, setPhaseOutBody, powerBody, applyMicro, State.field,
      hp.eq_iff]

/-- Under OFF the waveform bits are kept or drawn; either way no coupled value moves (R80). -/
theorem keepsConsistent_offDraws (s : State) : (offDraws s).all Micro.keepsConsistent = true := by
  unfold offDraws
  split <;> rfl

/-- The bits of every mode code: waveform bits, and under OFF both sleep bits. -/
theorem consistent_modeBits (hw : s.cfg.Wf) (hc : Consistent s) (m : BitVec 8) :
    Consistent (perform (modeBits m s) s) := by
  unfold modeBits
  split_ifs
  · exact consistent_perform hw hc rfl
  · exact consistent_perform hw hc rfl
  · exact consistent_perform hw hc rfl
  · rw [perform_append]
    exact consistent_perform (by rwa [perform_cfg]) (consistent_coupled hw hc true (.inl rfl)) (keepsConsistent_offDraws s)
  · exact hc

/-- The lines of a request that passed its check leave a consistent block consistent: the coupled values of POWER and the
two selects move together, INIT writes them all, and the other requests move none. -/
theorem consistent_passBody {i : Instr} (hw : s.cfg.Wf) (hc : Consistent s) (hr : isRequest i = true) :
    Consistent (perform (passBody i s) s) := by
  have after : ∀ {p q}, Consistent (perform p s) → q.all Micro.keepsConsistent = true → Consistent (perform (p ++ q) s) :=
    fun hp hq => by
      rw [perform_append]
      exact consistent_perform (by rwa [perform_cfg]) hp hq
  cases i with
  | init => exact consistent_init hw hc.reserved
  | power d => exact after (q := [.emitCmd, .respond .ok 0#64]) (consistent_coupled hw hc _ (.inl rfl)) rfl
  | setMode d => exact after (consistent_modeBits hw hc _) rfl
  | setFreqOut i => exact after (q := [.emitCmd, .respond .ok 0#64]) (consistent_coupled hw hc _ (.inr (.inl rfl))) rfl
  | setPhaseOut i => exact after (q := [.emitCmd, .respond .ok 0#64]) (consistent_coupled hw hc _ (.inr (.inr rfl))) rfl
  | cmd | resetw | freqLo0 | freqHi0 | freqLo1 | freqHi1 | phase0 | phase1 => cases hr
  | _ => exact consistent_perform hw hc rfl

/-- Every request, rejected or not, leaves a consistent block consistent. -/
theorem consistent_exec {i : Instr} {t : State} (hw : s.cfg.Wf) (hc : Consistent s) (hr : isRequest i = true)
    (ht : exec i s = .next t) : Consistent t := by
  rcases exec_cases i s with ⟨st, -, h⟩ | ⟨-, h⟩ <;> rw [h] at ht <;> obtain rfl := Host.Outcome.next.inj ht
  · exact hc.congr ⟨rfl, rfl, rfl, rfl, rfl, rfl⟩
  · exact consistent_passBody hw hc hr

end

/-! ### The select pin -/

/-- The half of the invariant that speaks of the pin: its level (R67), and that no frame finds it undriven (R71). -/
structure PinSafe (s : State) : Prop where
  level : s.selN = !selectIsLow s
  drivenNow : selectIsLow s = true → s.selOe = true
  drivenNext : drivenLines s.selOe (pending s.seq) = true

theorem Inv.pinSafe {s : State} (h : Inv s) : PinSafe s := ⟨h.level, h.drivenNow, h.drivenNext⟩

theorem PinSafe.inv {s : State} (h : PinSafe s) (hw : s.cfg.Wf) (hc : Consistent (settled s)) : Inv s :=
  ⟨hw, hc, h.level, h.drivenNow, h.drivenNext⟩

/-- A line drives the pin or leaves it as driven as it was. -/
theorem applyMicro_selOe (op : Micro) (s : State) : (applyMicro op s).selOe = (s.selOe || op.drives) := by
  cases op <;> simp [applyMicro, Micro.drives]

/-- Whole lines leave the select pin at 1. -/
theorem applyMicro_selN (op : Micro) {s : State} (h : s.selN = true) : (applyMicro op s).selN = true := by
  cases op <;> simp [applyMicro, h]

theorem perform_selN (q : List Micro) {s : State} (h : s.selN = true) : (perform q s).selN = true := by
  induction q generalizing s with
  | nil => exact h
  | cons op q ih => exact ih (applyMicro_selN op h)

theorem drivenLines_cons {oe : Bool} {op : Micro} {q : List Micro} (h : drivenLines oe (op :: q) = true) :
    (op.frames = true → oe = true) ∧ drivenLines (oe || op.drives) q = true := by
  obtain ⟨hf, hq⟩ := Bool.and_eq_true_iff.mp h
  exact ⟨fun e => by simpa [e] using hf, hq⟩

/-- On a driven pin any lines may be performed. -/
theorem drivenLines_driven (q : List Micro) : drivenLines true q = true := by
  induction q with
  | nil => rfl
  | cons op q ih => simp [drivenLines, ih]

/-- The lines of a request frame no word on an undriven pin: INIT drives it first, any other needs `st.init` (R71). -/
theorem drivenLines_plan {i : Instr} {s : State} (hr : isRequest i = true) (hpin : s.init = true → s.selOe = true) :
    drivenLines s.selOe (plan i s) = true := by
  cases hc : checkOf i s with
  | some st => rw [plan_of_checkOf_some hc]; rfl
  | none =>
    rw [plan_of_checkOf_none hc]
    rcases init_of_checkOf_none hc hr with rfl | hi
    · cases s.selOe <;> rfl
    · rw [hpin hi]
      exact drivenLines_driven _

/-- With select high, no event in progress and drivable lines the pin is safe. -/
theorem pinSafe_between {s : State} {q : List Micro} (hs : s.seq = .busy none q ∨ s.seq = .idle ∧ q = [])
    (hN : s.selN = true) (hq : drivenLines s.selOe q = true) : PinSafe s := by
  rcases hs with hs | ⟨hs, rfl⟩ <;> refine ⟨?_, ?_, ?_⟩ <;> simp [selectIsLow, pending, hs, hN, hq]

/-- Beginning the next event keeps the pin safe. -/
theorem pinSafe_advance (q : List Micro) {s : State} (hN : s.selN = true) (hq : drivenLines s.selOe q = true) :
    PinSafe (advance q s) := by
  induction q generalizing s with
  | nil => exact pinSafe_between (.inr ⟨rfl, rfl⟩) hN rfl
  | cons op q ih =>
    obtain ⟨hf, hq⟩ := drivenLines_cons hq
    have same : op.drives = false → drivenLines s.selOe q = true := fun h => by simpa [h] using hq
    have hop : PinSafe (advance q (applyMicro op s)) := ih (applyMicro_selN op hN) (by rwa [applyMicro_selOe])
    cases op with
    | selEnable => exact ⟨applyMicro_selN .selEnable hN, fun _ => rfl, drivenLines_driven q⟩
    | waitInit => exact ⟨hN, fun h => (nomatch h), same rfl⟩
    | respond st d => exact ⟨hN, fun h => (nomatch h), same rfl⟩
    | emitCmd => exact ⟨rfl, fun _ => hf rfl, same rfl⟩
    | emit slot w => exact ⟨rfl, fun _ => hf rfl, same rfl⟩
    | _ => exact hop

/-- Moving on inside the select-low part of a frame, or inside an event that leaves select high, keeps the pin safe. -/
theorem pinSafe_setPhase {s : State} {ph ph' : Phase} {q q' : List Micro} (h : PinSafe s) (hs : s.seq = .busy (some ph) q)
    (hl : ph'.selectLow = ph.selectLow) (hq : drivenLines s.selOe q' = true) :
    PinSafe { s with seq := .busy (some ph') q' } := by
  have e : selectIsLow { s with seq := .busy (some ph') q' } = selectIsLow s := by simp only [selectIsLow, hs, hl]
  exact ⟨by rw [e]; exact h.level, by rw [e]; exact h.drivenNow, hq⟩

/-- Beginning the hold keeps the pin safe: select stays low. -/
theorem pinSafe_beginHold {s : State} {w : Word} {first : Bool} {q : List Micro} (h : PinSafe s)
    (hs : s.seq = .busy (some (.lo w first)) q) (hq : drivenLines s.selOe q = true) : PinSafe (beginHold w q s) := by
  rcases beginHold_cases w q s with ⟨f, b, rest, rfl, e⟩ | ⟨-, e⟩ <;> rw [e]
  · have hrest : drivenLines s.selOe rest = true := by simpa [Micro.drives] using (drivenLines_cons hq).2
    obtain ⟨level, now, next⟩ := pinSafe_setPhase (ph' := .hold w 0) h hs rfl hrest
    exact ⟨level, now, next⟩
  · exact pinSafe_setPhase h hs rfl hq

/-- The next cycle of the event in progress keeps the pin safe. -/
theorem pinSafe_nextPhase {s : State} {ph : Phase} {q : List Micro} (d : Bool) (h : PinSafe s)
    (hs : s.seq = .busy (some ph) q) : PinSafe (nextPhase d ph q s) := by
  have hq : drivenLines s.selOe q = true := by simpa [pending, hs] using h.drivenNext
  have hN : ph.selectLow = false → s.selN = true := fun e => by simp [h.level, selectIsLow, hs, e]
  have adv : ph.selectLow = false → PinSafe (advance q s) := fun e => pinSafe_advance q (hN e) hq
  cases ph with
  | selEnable => exact adv rfl
  | wait n =>
    simp only [nextPhase]
    split_ifs
    exacts [adv rfl, pinSafe_setPhase h hs rfl hq]
  | setup w n =>
    simp only [nextPhase]
    split_ifs <;> exact pinSafe_setPhase h hs rfl hq
  | hi w first => cases d <;> exact pinSafe_setPhase h hs rfl hq
  | lo w first =>
    simp only [nextPhase]
    split_ifs
    exacts [pinSafe_beginHold h hs hq, pinSafe_setPhase h hs rfl hq]
  | hold w n =>
    simp only [nextPhase]
    split_ifs
    exacts [⟨rfl, fun e => (nomatch e), hq⟩, pinSafe_setPhase h hs rfl hq]
  | gap n =>
    simp only [nextPhase]
    split_ifs
    exacts [adv rfl, pinSafe_setPhase h hs rfl hq]
  | responding => exact pinSafe_advance q (s := { s with resp := none }) (hN rfl) hq

/-! ### IDLE states -/

/-- An IDLE block's pin is at 1. -/
theorem PinSafe.selN_of_idle {s : State} (h : PinSafe s) (hs : s.seq = .idle) : s.selN = true := by
  simp [h.level, selectIsLow, hs]

/-- In an IDLE block nothing is left to settle. -/
theorem Inv.consistent_of_idle {s : State} (h : Inv s) (hs : s.seq = .idle) : Consistent s := by
  have hc := h.consistent
  rw [settled_idle hs] at hc
  exact hc.setResp s.resp

/-- The invariant of an IDLE block: no frame is in progress and no line is left. -/
theorem inv_of_idle {s : State} (hs : s.seq = .idle) (hw : s.cfg.Wf) (hN : s.selN = true) (hc : Consistent s) : Inv s :=
  (pinSafe_between (.inr ⟨hs, rfl⟩) hN rfl).inv hw (by rw [settled_idle hs]; exact hc.setResp none)

/-- In an IDLE block the response port and the inputs to come are free. -/
theorem Inv.setPorts_of_idle {s : State} (h : Inv s) (hs : s.seq = .idle) (x : Option Response) (y : List Input) :
    Inv { s with resp := x, inputs := y } :=
  inv_of_idle hs h.wf (h.pinSafe.selN_of_idle hs)
    ((h.consistent_of_idle hs).congr ⟨rfl, rfl, rfl, rfl, rfl, rfl⟩)

/-- A request as one atomic step keeps the invariant. -/
theorem inv_exec {i : Instr} {s t : State} (h : Inv s) (hs : s.seq = .idle) (hr : isRequest i = true)
    (ht : exec i s = .next t) : Inv t := by
  have hc := consistent_exec h.wf (h.consistent_of_idle hs) hr ht
  obtain rfl := exec_next ht
  exact inv_of_idle (by rwa [perform_seq]) (by rw [perform_cfg]; exact h.wf)
    (perform_selN _ (h.pinSafe.selN_of_idle hs)) hc

/-- After a block reset the invariant holds, with any legal parameters. -/
theorem inv_blockReset {s : State} (hw : s.cfg.Wf) : Inv (blockReset s) := by
  refine inv_of_idle rfl hw rfl ⟨?_, ?_, reservedClear_zero _, ?_, ?_, fun h => (nomatch h), fun h => (nomatch h)⟩ <;>
    simp [State.field, State.reset]

/-- Settles O46: the reset state is a block reset of itself. -/
theorem resetMeetsInvariant : Obligations.ResetMeetsInvariant :=
  inv_blockReset (s := State.reset) Config.board_wf

/-! ### Clock edges keep the invariant -/

/-- Accepting a request keeps the invariant. -/
theorem inv_clockEdge_accept {p : Pins} {s : State} (h : Inv s) (hr : p.rst = false) (hs : s.seq = .idle)
    (hv : p.reqValid = true) : Inv (clockEdge p s) := by
  have hreq := isRequest_decodeRequest p.req
  have hc : Consistent { s with resp := none } := (h.consistent_of_idle hs).setResp none
  have ht := exec_eq_plan (decodeRequest p.req) { s with resp := none }
  have hpin : PinSafe (clockEdge p s) := by
    rw [clockEdge_accept hr hv hs, accept]
    exact pinSafe_advance _ (h.pinSafe.selN_of_idle hs) (drivenLines_plan hreq hc.pin)
  refine hpin.inv (by rw [clockEdge_cfg]; exact h.wf) ?_
  rw [settled_clockEdge_accept hr hs hv ht]
  exact (consistent_exec (s := { s with resp := none }) h.wf hc hreq ht).setResp none

/-- Every edge keeps the invariant. -/
theorem inv_clockEdge (p : Pins) {s : State} (h : Inv s) : Inv (clockEdge p s) := by
  cases hr : p.rst with
  | true => rw [clockEdge_reset s hr]; exact inv_blockReset h.wf
  | false =>
    have busy : s.seq ≠ .idle → PinSafe (clockEdge p s) → Inv (clockEdge p s) := fun hb hpin =>
      hpin.inv (by rw [clockEdge_cfg]; exact h.wf) (by rw [settled_clockEdge_busy hr hb]; exact h.consistent)
    match hs : s.seq with
    | .busy none q =>
      refine busy (fun e => nomatch hs.symm.trans e) ?_
      rw [clockEdge_between hr hs]
      exact pinSafe_advance q (by simp [h.level, selectIsLow, hs]) (by simpa [pending, hs] using h.drivenNext)
    | .busy (some ph) q =>
      refine busy (fun e => nomatch hs.symm.trans e) ?_
      rw [clockEdge_busy hr hs]
      exact pinSafe_nextPhase _ h.pinSafe hs
    | .idle =>
      cases hv : p.reqValid with
      | false => rw [clockEdge_idle hr hv hs]; exact h.setPorts_of_idle hs none s.inputs
      | true => exact inv_clockEdge_accept h hr hs hv

/-! ### Every step keeps the invariant -/

theorem finishCurrent_setInputs (s : State) (x : List Input) :
    finishCurrent { s with inputs := x } = { finishCurrent s with inputs := x } := by
  simp only [finishCurrent]
  split
  case h_1 ph q hs => cases ph <;> rfl
  all_goals rfl

/-- The inputs to come are not looked at. -/
theorem Inv.setInputs {s : State} (h : Inv s) (x : List Input) : Inv { s with inputs := x } := by
  have finished : SameControl (finishCurrent s) (finishCurrent { s with inputs := x }) := by
    rw [finishCurrent_setInputs s x]
    exact ⟨rfl, rfl, rfl, rfl, rfl, rfl⟩
  exact ⟨h.wf, h.consistent.congr (finished.quiet (pending s.seq)), h.level, h.drivenNow, h.drivenNext⟩

/-- Between events a step that performs the next line, up to the trace, keeps the invariant. -/
theorem inv_line {s t : State} {op : Micro} {q : List Micro} (h : Inv s) (hs : s.seq = .busy none (op :: q))
    (ht : t.seq = .busy none q) (hN : t.selN = true) (hsame : SameControl (applyMicro op s) t) : Inv t := by
  have hlines : drivenLines s.selOe (op :: q) = true := by simpa only [pending, hs] using h.drivenNext
  have hc := h.consistent
  rw [settled_between hs] at hc
  refine (pinSafe_between (.inl ht) hN ?_).inv ?_ ?_
  · rw [← hsame.selOe, applyMicro_selOe]; exact (drivenLines_cons hlines).2
  · rw [← hsame.cfg, applyMicro_cfg]; exact h.wf
  · rw [settled_between ht]; exact hc.congr (hsame.quiet q)

/-- A step that completes the event in progress keeps the invariant. -/
theorem inv_finishPhase {s : State} {ph : Phase} {q : List Micro} (h : Inv s) (hs : s.seq = .busy (some ph) q) :
    Inv { finishPhase ph s with seq := .busy none q } := by
  have hq : drivenLines s.selOe q = true := by simpa only [pending, hs] using h.drivenNext
  have hl : s.selN = !ph.selectLow := by simpa only [selectIsLow, hs] using h.level
  have hN : (finishPhase ph s).selN = true := by
    cases ph with
    | setup | hi | lo | hold => rfl
    | _ => exact hl
  have hfix : (finishPhase ph s).selOe = s.selOe ∧ (finishPhase ph s).cfg = s.cfg := by cases ph <;> exact ⟨rfl, rfl⟩
  refine (pinSafe_between (s := { finishPhase ph s with seq := .busy none q }) (.inl rfl) hN ?_).inv ?_ ?_
  · rw [← hfix.1] at hq; exact hq
  · exact hfix.2 ▸ h.wf
  · rw [settled_between (q := q) rfl, perform_quiet_setSeq, ← settled_during hs]
    exact h.consistent

/-- Settles O47: one lemma for each thing a step can do. -/
theorem everyStepKeepsInvariant : Obligations.EveryStepKeepsInvariant := by
  intro s t h hst
  have hN : ∀ q, s.seq = .busy none q → s.selN = true := fun q hs => by simp [h.level, selectIsLow, hs]
  rcases step_cases hst with ⟨p, rest, -, rfl⟩ | ⟨r, rest, hs, -, ht⟩ | ⟨hs, -, rfl⟩ | ⟨ph, q, hs, rfl⟩ | ⟨hs, rfl⟩ |
    ⟨op, q, hs, -, rfl⟩ | ⟨op, q, w, hs, hop, rfl⟩
  · exact inv_clockEdge p (h.setInputs rest)
  · exact inv_exec (h.setPorts_of_idle hs none rest) hs (isRequest_decodeRequest r) ht
  · exact h.setPorts_of_idle hs none s.inputs
  · exact inv_finishPhase h hs
  · have hc := h.consistent
    rw [settled_between hs] at hc
    exact inv_of_idle rfl h.wf (hN _ hs) hc
  · have taken : SameControl s { s with seq := .busy none q } := ⟨rfl, rfl, rfl, rfl, rfl, rfl⟩
    exact inv_line h hs (applyMicro_seq op _) (applyMicro_selN op (hN _ hs)) (taken.applyMicro op)
  · refine inv_line h hs rfl rfl ?_
    cases op with
    | emitCmd => exact ⟨rfl, rfl, rfl, rfl, rfl, rfl⟩
    | emit slot w' => exact ⟨rfl, rfl, rfl, rfl, rfl, rfl⟩
    | _ => cases hop

end Sys2Proof.Machine
end

section
/-! Reset (10_state.md R30, 70_reset_and_hazards.md R117), and what only a reset edge takes back. -/

namespace Sys2Proof.Machine

/-! ### Reset -/

/-- Settles O1: the edge is a block reset, whose fields are the reset state's. -/
theorem resetEdgeRestoresEveryField : Obligations.ResetEdgeRestoresEveryField := by
  intro p s hr
  rw [clockEdge_reset s hr]
  exact ⟨rfl, rfl, rfl, rfl, rfl, rfl, rfl, rfl, rfl, rfl, rfl, rfl, rfl, rfl, rfl, rfl⟩

/-- Settles O2, field by field. -/
theorem resetStateHoldsSpecValues : Obligations.ResetStateHoldsSpecValues :=
  ⟨rfl, rfl, rfl, rfl, rfl, rfl, rfl, rfl, rfl, rfl, rfl, rfl, rfl, rfl, rfl, rfl⟩

/-! ### `st.init` and the driven pin stay -/

/-- From `s` to `t` neither `st.init` nor `st.sel_oe` falls (R27, R28). -/
structure KeepsUp (s t : State) : Prop where
  init : s.init = true → t.init = true
  selOe : s.selOe = true → t.selOe = true

theorem KeepsUp.of_eq {s t : State} (hi : t.init = s.init) (ho : t.selOe = s.selOe) : KeepsUp s t :=
  ⟨fun h => hi.trans h, fun h => ho.trans h⟩

theorem KeepsUp.trans {s t u : State} (h : KeepsUp s t) (h' : KeepsUp t u) : KeepsUp s u :=
  ⟨fun e => h'.init (h.init e), fun e => h'.selOe (h.selOe e)⟩

/-- What the ports and the sequencer held before does not matter. -/
theorem KeepsUp.of_setPorts {s t : State} {x : Seq} {y : Option Response} {z : List Input}
    (h : KeepsUp { s with seq := x, resp := y, inputs := z } t) : KeepsUp s t :=
  ⟨h.init, h.selOe⟩

/-- No line clears either: `setInit` writes 1, and `SelEnable` drives the pin. -/
theorem keepsUp_applyMicro (op : Micro) (s : State) : KeepsUp s (applyMicro op s) where
  init h := by cases op <;> simp [applyMicro, h]
  selOe h := by simp [applyMicro_selOe, h]

theorem keepsUp_perform (q : List Micro) (s : State) : KeepsUp s (perform q s) := by
  induction q generalizing s with
  | nil => exact .of_eq rfl rfl
  | cons op q ih => exact (keepsUp_applyMicro op s).trans (ih _)

theorem keepsUp_advance (q : List Micro) (s : State) : KeepsUp s (advance q s) := by
  induction q generalizing s with
  | nil => exact .of_eq rfl rfl
  | cons op q ih =>
    cases op with
    | selEnable => exact ⟨id, fun _ => rfl⟩
    | waitInit | emitCmd | emit | respond => exact .of_eq rfl rfl
    | _ => exact (keepsUp_applyMicro _ s).trans (ih _)

theorem keepsUp_beginHold (w : Word) (q : List Micro) (s : State) : KeepsUp s (beginHold w q s) := by
  rcases beginHold_cases w q s with ⟨f, b, rest, -, h⟩ | ⟨-, h⟩ <;> rw [h] <;> exact .of_eq rfl rfl

/-- The next cycle of an event either stays in the event, begins its hold, or begins the next event. -/
theorem keepsUp_nextPhase (d : Bool) (ph : Phase) (q : List Micro) (s : State) : KeepsUp s (nextPhase d ph q s) := by
  have adv := keepsUp_advance q s
  cases ph with
  | selEnable => exact adv
  | hi w first => exact .of_eq rfl rfl
  | responding => exact (keepsUp_advance q { s with resp := none }).of_setPorts
  | lo w first =>
    simp only [nextPhase]
    split_ifs
    exacts [keepsUp_beginHold w q s, .of_eq rfl rfl]
  | wait n | gap n =>
    simp only [nextPhase]
    split_ifs
    exacts [adv, .of_eq rfl rfl]
  | setup w n | hold w n =>
    simp only [nextPhase]
    split_ifs <;> exact .of_eq rfl rfl

theorem keepsUp_clockEdge {p : Pins} (hr : p.rst = false) (s : State) : KeepsUp s (clockEdge p s) := by
  match hs : s.seq with
  | .busy none q => rw [clockEdge_between hr hs]; exact keepsUp_advance q s
  | .busy (some ph) q => rw [clockEdge_busy hr hs]; exact keepsUp_nextPhase _ ph q s
  | .idle =>
    cases hv : p.reqValid with
    | false => rw [clockEdge_idle hr hv hs]; exact .of_eq rfl rfl
    | true => rw [clockEdge_accept hr hv hs]; exact (keepsUp_advance _ { s with resp := none }).of_setPorts

theorem keepsUp_finishPhase (ph : Phase) (s : State) : KeepsUp s (finishPhase ph s) := by
  cases ph <;> exact .of_eq rfl rfl

/-- Settles O45: one lemma for each thing a step can do. -/
theorem onlyResetClearsInitAndPin : Obligations.OnlyResetClearsInitAndPin := by
  intro s t hst hrst
  suffices h : KeepsUp s t from ⟨h.init, h.selOe⟩
  rcases step_cases hst with ⟨p, rest, hi, rfl⟩ | ⟨r, rest, -, -, ht⟩ | ⟨-, -, rfl⟩ | ⟨ph, q, -, rfl⟩ | ⟨-, rfl⟩ |
    ⟨op, q, -, -, rfl⟩ | ⟨op, q, w, -, -, rfl⟩
  · exact (keepsUp_clockEdge (hrst p rest hi) { s with inputs := rest }).of_setPorts
  · rw [exec_next ht]
    exact (keepsUp_perform _ { s with inputs := rest, resp := none }).of_setPorts
  · exact .of_eq rfl rfl
  · exact (keepsUp_finishPhase ph s).trans (.of_eq rfl rfl)
  · exact .of_eq rfl rfl
  · exact (keepsUp_applyMicro op { s with seq := .busy none q }).of_setPorts
  · exact .of_eq rfl rfl

end Sys2Proof.Machine
end

section
/-! Who writes what (10_state.md R15, R16, R18): the fields of the mirror and the other registers that a line can change, and
the lines each instruction has. -/

namespace Sys2Proof.Machine

/-! ### The mirror's bits -/

/-- The field of the mirror this line sets. Clearing the whole mirror is no field's line. -/
def Micro.mirrorField : Micro → Option CmdField
  | .setBit f _ => some f
  | .holdSetBit f _ => some f
  | _ => none

/-- The line clears the whole mirror. -/
def Micro.clears : Micro → Bool
  | .clearCmd => true
  | _ => false

/-- A bit of the mirror after a line that sets no field at it: 0 after a clear, else as before. -/
theorem getLsbD_applyMicro_cmd {op : Micro} {s : State} {j : Nat}
    (h : ∀ f, op.mirrorField = some f → j ≠ (s.cfg.pos f).val) :
    (applyMicro op s).cmd.getLsbD j = if op.clears then false else s.cmd.getLsbD j := by
  have other : ∀ f b, j ≠ (s.cfg.pos f).val → (setBit s.cmd (s.cfg.pos f).val b).getLsbD j = s.cmd.getLsbD j :=
    fun f b hj => by rw [setBit_getLsbD _ _ _ _ (by omega), if_neg hj]
  cases op with
  | clearCmd => exact BitVec.getLsbD_zero
  | setBit f b => exact other f b (h f rfl)
  | holdSetBit f b => exact other f b (h f rfl)
  | setFreq i f => exact congrArg (BitVec.getLsbD · j) (writeFreq_cmd i f s)
  | setPhase i p => exact congrArg (BitVec.getLsbD · j) (writePhase_cmd i p s)
  | _ => rfl

section
variable {q : List Micro} {s : State} {j : Nat}

/-- Lines that neither clear the mirror nor set a field at this bit keep the bit. -/
theorem perform_keeps_bit (hclear : q.any Micro.clears = false)
    (h : ∀ op ∈ q, ∀ f, op.mirrorField = some f → j ≠ (s.cfg.pos f).val) :
    (perform q s).cmd.getLsbD j = s.cmd.getLsbD j := by
  induction q generalizing s with
  | nil => rfl
  | cons op q ih =>
    obtain ⟨hop, hq⟩ := List.forall_mem_cons.mp h
    obtain ⟨hstay, hclear⟩ := Bool.or_eq_false_iff.mp hclear
    rw [perform_cons, ih hclear (by rwa [applyMicro_cfg]), getLsbD_applyMicro_cmd hop, hstay, if_neg Bool.false_ne_true]

/-- Lines that set no field at this bit leave a 0 there. -/
theorem perform_keeps_bit_clear (h : ∀ op ∈ q, ∀ f, op.mirrorField = some f → j ≠ (s.cfg.pos f).val)
    (hs : s.cmd.getLsbD j = false) : (perform q s).cmd.getLsbD j = false := by
  induction q generalizing s with
  | nil => exact hs
  | cons op q ih =>
    obtain ⟨hop, hq⟩ := List.forall_mem_cons.mp h
    refine ih (by rwa [applyMicro_cfg]) ?_
    rw [getLsbD_applyMicro_cmd hop, hs, ite_self]

end

/-- The fields of the mirror an instruction's lines may set (R16). -/
def mirrorFields : Instr → List CmdField
  | .init => [.b28, .sleep1, .sleep12, .fsel, .psel]
  | .power _ => [.sleep1, .sleep12]
  | .setMode _ => [.opbiten, .div2, .mode, .sleep1, .sleep12]
  | .setFreq _ _ => [.b28]
  | .setFreqOut _ => [.fsel]
  | .setPhaseOut _ => [.psel]
  | _ => []

/-- A mode code's lines set bits of its five fields, under either policy of OFF (R79, R80), or count draws. -/
theorem mem_modeBits (m : BitVec 8) (s : State) :
    ∀ op ∈ modeBits m s,
      (∃ f ∈ [.opbiten, .div2, .mode, .sleep1, .sleep12], ∃ b, op = .setBit f b) ∨ op = .countDraws 3 := by
  have draws : ∀ op ∈ offDraws s,
      (∃ f ∈ [.opbiten, .div2, .mode, .sleep1, .sleep12], ∃ b, op = .setBit f b) ∨ op = .countDraws 3 := by
    unfold offDraws
    split <;> simp
  unfold modeBits
  split_ifs
  · simp
  · simp
  · simp
  · exact List.forall_mem_append.mpr ⟨by simp, draws⟩
  · simp

/-- The lines of SET_MODE (R78). -/
theorem mem_passBody_setMode {d : Data} {s : State} {op : Micro} (h : op ∈ passBody (.setMode d) s) :
    (∃ f ∈ mirrorFields (.setMode d), ∃ b, op = .setBit f b) ∨ op = .countDraws 3 ∨
      op = .setMode (modeCode d) ∨ op = .emitCmd ∨ op = .respond .ok 0#64 := by
  rcases List.mem_append.mp h with h | h
  · rcases mem_modeBits _ s op h with h | h
    exacts [.inl h, .inr (.inl h)]
  · exact .inr (.inr (by simpa using h))

/-- Every line of an instruction sets one of the instruction's fields, or none. -/
theorem mem_mirrorFields {i : Instr} {s : State} {op : Micro} {f : CmdField} (hop : op ∈ passBody i s)
    (hf : op.mirrorField = some f) : f ∈ mirrorFields i := by
  have hm : f ∈ (passBody i s).filterMap Micro.mirrorField := List.mem_filterMap.mpr ⟨op, hop, hf⟩
  cases i with
  | init =>
    have sub : [.b28, .sleep12, .b28, .b28, .fsel, .psel, .sleep1, .sleep12] ⊆ mirrorFields .init := by simp [mirrorFields]
    exact sub hm
  | setMode d =>
    rcases mem_passBody_setMode hop with ⟨g, hg, b, rfl⟩ | rfl | rfl | rfl | rfl <;> cases hf
    exact hg
  | _ => exact hm

/-- No instruction but INIT clears the mirror. -/
theorem passBody_clears {i : Instr} (hi : i ≠ .init) (s : State) : (passBody i s).any Micro.clears = false := by
  cases i with
  | init => exact absurd rfl hi
  | setMode d =>
    refine List.any_eq_false.mpr fun op hop => ?_
    rcases mem_passBody_setMode hop with ⟨f, -, b, rfl⟩ | rfl | rfl | rfl | rfl <;> exact Bool.false_ne_true
  | _ => rfl

/-- Every instruction but INIT keeps each bit of the mirror at which none of its own fields stands. -/
theorem exec_keeps_bit {i : Instr} {s t : State} {j : Nat} (hi : i ≠ .init) (ht : exec i s = .next t)
    (hj : ∀ f ∈ mirrorFields i, j ≠ (s.cfg.pos f).val) : t.cmd.getLsbD j = s.cmd.getLsbD j := by
  rcases exec_cases i s with ⟨st, -, h⟩ | ⟨-, h⟩ <;> rw [h] at ht <;> obtain rfl := Host.Outcome.next.inj ht
  · rfl
  · exact perform_keeps_bit (passBody_clears hi s) fun op hop f hf => hj f (mem_mirrorFields hop hf)

/-- Settles O42: the fields of each instruction's lines. -/
theorem mirrorBitsKeptByEachSetter : Obligations.MirrorBitsKeptByEachSetter := by
  intro s t i j ht
  refine ⟨?_, ?_, ?_, ?_, ?_, fun hi hpower hmode hfreq hfsel hpsel => ?_⟩
  · rintro d rfl h1 h12
    exact exec_keeps_bit (i := .power d) nofun ht (by simp [mirrorFields, Config.pos, h1, h12])
  · rintro d rfl hopb hdiv hmode h1 h12
    exact exec_keeps_bit (i := .setMode d) nofun ht (by simp [mirrorFields, Config.pos, *])
  · rintro k d rfl hb28
    exact exec_keeps_bit (i := .setFreq k d) nofun ht (by simpa [mirrorFields, Config.pos] using hb28)
  · rintro k rfl hfsel
    exact exec_keeps_bit (i := .setFreqOut k) nofun ht (by simpa [mirrorFields, Config.pos] using hfsel)
  · rintro k rfl hpsel
    exact exec_keeps_bit (i := .setPhaseOut k) nofun ht (by simpa [mirrorFields, Config.pos] using hpsel)
  · have hnone : mirrorFields i = [] := by
      cases i with
      | init => exact absurd rfl hi
      | power d => exact absurd rfl (hpower d)
      | setMode d => exact absurd rfl (hmode d)
      | setFreq k d => exact absurd rfl (hfreq k d)
      | setFreqOut k => exact absurd rfl (hfsel k)
      | setPhaseOut k => exact absurd rfl (hpsel k)
      | _ => rfl
    exact exec_keeps_bit hi ht (by simp [hnone])

/-! ### The other registers -/

/-- What a line writes beside the mirror, the trace and the two ports. -/
inductive Register where
  | freq (i : Bank) | phase (i : Bank) | fsel | psel | mode | init | selOe | draws

/-- The register this line writes. -/
def Micro.register : Micro → Option Register
  | .setFreq i _ => some (.freq i)
  | .setPhase i _ => some (.phase i)
  | .setFsel _ => some .fsel
  | .setPsel _ => some .psel
  | .setMode _ => some .mode
  | .setInit => some .init
  | .selEnable => some .selOe
  | .countDraws _ => some .draws
  | _ => none

/-- The register holds in `t` what it held in `s`. -/
def Register.Kept (s t : State) : Register → Prop
  | .freq i => t.freq i = s.freq i
  | .phase i => t.phase i = s.phase i
  | .fsel => t.fsel = s.fsel
  | .psel => t.psel = s.psel
  | .mode => t.mode = s.mode
  | .init => t.init = s.init
  | .selOe => t.selOe = s.selOe
  | .draws => t.draws = s.draws

theorem freq_writeFreq_of_ne {i j : Bank} (h : i ≠ j) (f : Data) (s : State) : (writeFreq i f s).freq j = s.freq j := by
  match i, j with
  | .b0, .b1 | .b1, .b0 => rfl
  | .b0, .b0 | .b1, .b1 => exact absurd rfl h

theorem phase_writePhase_of_ne {i j : Bank} (h : i ≠ j) (p : PhaseVal) (s : State) :
    (writePhase i p s).phase j = s.phase j := by
  match i, j with
  | .b0, .b1 | .b1, .b0 => rfl
  | .b0, .b0 | .b1, .b1 => exact absurd rfl h

/-- A line keeps every register it does not write. -/
theorem kept_applyMicro {op : Micro} {x : Register} (h : op.register ≠ some x) (s : State) :
    x.Kept s (applyMicro op s) := by
  cases op with
  | setFreq i f =>
    cases x with
    | freq j => exact freq_writeFreq_of_ne (fun e => h (by rw [e]; rfl)) f s
    | _ => simp [Register.Kept, applyMicro, State.phase]
  | setPhase i p =>
    cases x with
    | phase j => exact phase_writePhase_of_ne (fun e => h (by rw [e]; rfl)) p s
    | _ => simp [Register.Kept, applyMicro, State.freq]
  | setFsel b =>
    cases x with
    | fsel => exact absurd rfl h
    | _ => rfl
  | setPsel b =>
    cases x with
    | psel => exact absurd rfl h
    | _ => rfl
  | setMode m =>
    cases x with
    | mode => exact absurd rfl h
    | _ => rfl
  | setInit =>
    cases x with
    | init => exact absurd rfl h
    | _ => rfl
  | selEnable =>
    cases x with
    | selOe => exact absurd rfl h
    | _ => rfl
  | countDraws n =>
    cases x with
    | draws => exact absurd rfl h
    | _ => rfl
  | _ => cases x <;> rfl

theorem Register.Kept.trans {x : Register} {s t u : State} (h : x.Kept s t) (h' : x.Kept t u) : x.Kept s u := by
  cases x <;> exact Eq.trans h' h

/-- Lines that do not write a register keep it. -/
theorem kept_perform {q : List Micro} {x : Register} (h : ∀ op ∈ q, op.register ≠ some x) (s : State) :
    x.Kept s (perform q s) := by
  induction q generalizing s with
  | nil => cases x <;> rfl
  | cons op q ih =>
    obtain ⟨hop, hq⟩ := List.forall_mem_cons.mp h
    exact (kept_applyMicro hop s).trans (ih hq _)

/-- The index that names a register (R12). -/
def bankIndex : Bank → BitVec 2
  | .b0 => 0#2
  | .b1 => 1#2

/-- The instructions that may write a register. -/
def Register.WrittenBy : Register → Instr → Prop
  | .freq b, i => i = .init ∨ ∃ d, i = .setFreq (bankIndex b) d
  | .phase b, i => i = .init ∨ ∃ d, i = .setPhase (bankIndex b) d
  | .fsel, i => i = .init ∨ ∃ k, i = .setFreqOut k
  | .psel, i => i = .init ∨ ∃ k, i = .setPhaseOut k
  | .mode, i => i = .init ∨ ∃ d, i = .setMode d
  | .init, i => i = .init
  | .selOe, i => i = .init
  | .draws, i => ∃ d, i = .setMode d

/-- An index that has passed its check is that of the register it names (R104). -/
theorem bankIndex_bankOf_of_check {op : BitVec 4} {k : BitVec 2} {d : Data} {s : State}
    (h : checkRequest op k d s = none) (hop : indexed op = true) : bankIndex (bankOf k) = k := by
  have hk : ¬ 1#2 < k := fun hk => by
    unfold checkRequest at h
    split_ifs at h with _ _ hbad
    exact hbad ⟨hop, hk⟩
  clear h
  revert k
  decide

/-- Every register a line of a checked instruction writes has that instruction among its writers. -/
theorem writtenBy_of_mem {i : Instr} {s : State} {op : Micro} {x : Register} (hc : checkOf i s = none)
    (hop : op ∈ passBody i s) (hx : op.register = some x) : x.WrittenBy i := by
  have hm : x ∈ (passBody i s).filterMap Micro.register := List.mem_filterMap.mpr ⟨op, hop, hx⟩
  cases i with
  | init =>
    replace hm : x ∈ [.selOe, .freq .b0, .freq .b1, .phase .b0, .phase .b1, .fsel, .psel, .mode, .init] := hm
    cases x with
    | draws => simp at hm
    | init | selOe => rfl
    | _ => exact .inl rfl
  | setMode d =>
    rcases mem_passBody_setMode hop with ⟨f, -, b, rfl⟩ | rfl | rfl | rfl | rfl <;> cases hx
    exacts [⟨d, rfl⟩, .inr ⟨d, rfl⟩]
  | setFreq k d =>
    obtain rfl := List.mem_singleton.mp hm
    exact .inr ⟨d, by rw [bankIndex_bankOf_of_check hc rfl]⟩
  | setPhase k d =>
    obtain rfl := List.mem_singleton.mp hm
    exact .inr ⟨d, by rw [bankIndex_bankOf_of_check hc rfl]⟩
  | setFreqOut k =>
    obtain rfl := List.mem_singleton.mp hm
    exact .inr ⟨k, rfl⟩
  | setPhaseOut k =>
    obtain rfl := List.mem_singleton.mp hm
    exact .inr ⟨k, rfl⟩
  | _ => exact absurd hm List.not_mem_nil

/-- A register an instruction does not keep is one it writes. -/
theorem writtenBy_of_exec {i : Instr} {s t : State} {x : Register} (ht : exec i s = .next t) (hx : ¬ x.Kept s t) :
    x.WrittenBy i := by
  rcases exec_cases i s with ⟨st, -, h⟩ | ⟨hc, h⟩ <;> rw [h] at ht <;> obtain rfl := Host.Outcome.next.inj ht
  · exact absurd (by cases x <;> rfl) hx
  · by_contra hw
    exact hx (kept_perform (fun op hop e => hw (writtenBy_of_mem hc hop e)) s)

/-- Settles O43: each register by its writers; the sequencer, the parameters and the inputs by no line. -/
theorem eachFieldHasItsWriters : Obligations.EachFieldHasItsWriters := by
  intro i s t ht
  have writer : ∀ x : Register, ¬ x.Kept s t → x.WrittenBy i := fun x => writtenBy_of_exec ht
  have hframe : t.seq = s.seq ∧ t.cfg = s.cfg ∧ t.inputs = s.inputs := by
    rw [exec_next ht]
    exact ⟨perform_seq _ s, perform_cfg _ s, perform_inputs _ s⟩
  exact ⟨writer (.freq .b0), writer (.freq .b1), writer (.phase .b0), writer (.phase .b1), writer .fsel, writer .psel,
    writer .mode, writer .init, writer .selOe, writer .draws, hframe⟩

end Sys2Proof.Machine
end

section
/-! The words a request frames and the mirror (10_state.md R19, R20; 20_memory.md R33): which of them go to the command
register, and which of those carry RESET = 1. -/

namespace Sys2Proof.Machine

/-! ### The frames of a request's lines -/

theorem newFrames_of_append {s t : State} {ev : List Event} (h : t.trace = s.trace ++ ev) :
    newFrames s t = framesOf ev := by
  rw [newFrames, h, List.drop_left]

theorem newFrames_of_trace_eq {s t : State} (h : t.trace = s.trace) : newFrames s t = [] :=
  newFrames_of_append (ev := []) (by rw [h, List.append_nil])

@[simp] theorem newFrames_self (s : State) : newFrames s s = [] := newFrames_of_trace_eq rfl

@[simp] theorem newFrames_answered (st : Status) (d : Data) (s : State) : newFrames s (answered st d s) = [] :=
  newFrames_of_trace_eq rfl

theorem newFrames_perform_append (p q : List Micro) (s : State) :
    newFrames s (perform (p ++ q) s) =
      newFrames s (perform p s) ++ newFrames (perform p s) (perform q (perform p s)) := by
  obtain ⟨e₁, h₁⟩ := perform_trace p s
  obtain ⟨e₂, h₂⟩ := perform_trace q (perform p s)
  rw [newFrames_of_append h₁, newFrames_of_append h₂, perform_append, ← framesOf_append]
  exact newFrames_of_append (by rw [h₂, h₁, List.append_assoc])

theorem newFrames_perform_cons (op : Micro) (q : List Micro) (s : State) :
    newFrames s (perform (op :: q) s) =
      newFrames s (applyMicro op s) ++ newFrames (applyMicro op s) (perform q (applyMicro op s)) :=
  newFrames_perform_append [op] q s

theorem newFrames_emitFrame (w : Word) (s : State) : newFrames s (emitFrame w s) = [w] :=
  newFrames_of_append (emitFrame_trace w s)

/-- A line that frames no word appends none. -/
theorem newFrames_applyMicro_of_not_frames {op : Micro} (h : op.frames = false) (s : State) :
    newFrames s (applyMicro op s) = [] := by
  cases op with
  | emitCmd | emit => cases h
  | selEnable => exact newFrames_of_append (selEnable_trace s)
  | _ => exact newFrames_of_trace_eq (by simp [applyMicro])

/-- The word this line names. -/
def Micro.word : Micro → Option Word
  | .emit _ w => some w
  | _ => none

/-- A framed word is one the lines name, or the mirror as some of the lines have left it. -/
theorem mem_newFrames_perform {q : List Micro} {s : State} {w : Word} (h : w ∈ newFrames s (perform q s)) :
    w ∈ q.filterMap Micro.word ∨ ∃ p, p ⊆ q ∧ w = (perform p s).cmd := by
  induction q generalizing s with
  | nil => simp at h
  | cons op q ih =>
    rw [newFrames_perform_cons, List.mem_append] at h
    rw [← List.singleton_append, List.filterMap_append, List.mem_append]
    rcases h with h | h
    · cases op with
      | emit slot w' =>
        rw [applyMicro, newFrames_emitFrame] at h
        exact .inl (.inl h)
      | emitCmd =>
        rw [applyMicro, newFrames_emitFrame] at h
        exact .inr ⟨[], List.nil_subset _, List.mem_singleton.mp h⟩
      | _ => rw [newFrames_applyMicro_of_not_frames rfl] at h; cases h
    · rcases ih h with h | ⟨p, hp, h⟩
      · exact .inl (.inr h)
      · exact .inr ⟨op :: p, List.cons_subset_cons op hp, h⟩

/-! ### Which words go to the command register -/

/-- Both words of a split tuning word have the top bits of their register's tag (R86). -/
theorem wireTarget_split {c : Config} (hw : c.Wf) (i : Bank) (tw : Tuning) :
    wireTarget c (split c i tw).1 = some (.freq i) ∧ wireTarget c (split c i tw).2 = some (.freq i) := by
  have top : ∀ v : BitVec 32,
      (c.freqTag i ||| (v &&& 0x3FFF#32).setWidth 16).extractLsb' 14 2 = (c.freqTag i).extractLsb' 14 2 := by
    intro v
    have zero : ((v &&& 0x3FFF#32).setWidth 16).extractLsb' 14 2 = 0#2 := by
      apply BitVec.eq_of_getLsbD_eq
      intro j hj
      interval_cases j <;> simp
    rw [BitVec.extractLsb'_or, zero, BitVec.or_zero]
  exact ⟨wireTarget_freq hw (top _), wireTarget_freq hw (top _)⟩

/-- The words SET_FREQ's and SET_PHASE's lines name go to their registers. -/
theorem wireTarget_setFreqBody {c : Config} (hw : c.Wf) (i : Bank) (f : Data) :
    ∀ w ∈ (setFreqBody c i f).filterMap Micro.word, wireTarget c w ≠ some .command := by
  show ∀ w ∈ [_, _], _
  simp [wireTarget_split hw]

theorem wireTarget_setPhaseBody {c : Config} (hw : c.Wf) (i : Bank) (p : PhaseVal) :
    ∀ w ∈ (setPhaseBody c i p).filterMap Micro.word, wireTarget c w ≠ some .command := by
  show ∀ w ∈ [_], _
  simp [wireTarget_phaseWord hw]

/-- A word a request's lines name goes to a frequency or a phase register, or is INIT's reset word (R75). -/
theorem wireTarget_of_mem_words {i : Instr} {s : State} (hw : s.cfg.Wf) (hr : isRequest i = true) :
    ∀ w ∈ (passBody i s).filterMap Micro.word,
      wireTarget s.cfg w ≠ some .command ∨ i = .init ∧ w = resetWord s.cfg := by
  intro w h
  cases i with
  | init =>
    replace h : w ∈ [resetWord s.cfg] ++ (setFreqBody s.cfg .b0 0#64).filterMap Micro.word ++
        (setFreqBody s.cfg .b1 0#64).filterMap Micro.word ++ (setPhaseBody s.cfg .b0 0#12).filterMap Micro.word ++
        (setPhaseBody s.cfg .b1 0#12).filterMap Micro.word := h
    simp only [List.mem_append, List.mem_singleton] at h
    rcases h with (((rfl | h) | h) | h) | h
    exacts [.inr ⟨rfl, rfl⟩, .inl (wireTarget_setFreqBody hw _ _ w h), .inl (wireTarget_setFreqBody hw _ _ w h),
      .inl (wireTarget_setPhaseBody hw _ _ w h), .inl (wireTarget_setPhaseBody hw _ _ w h)]
  | setFreq k d => exact .inl (wireTarget_setFreqBody hw _ d w h)
  | setPhase k d => exact .inl (wireTarget_setPhaseBody hw _ _ w h)
  | setMode d =>
    obtain ⟨op, hop, hx⟩ := List.mem_filterMap.mp h
    rcases mem_passBody_setMode hop with ⟨f, -, b, rfl⟩ | rfl | rfl | rfl | rfl <;> cases hx
  | cmd | resetw | freqLo0 | freqHi0 | freqLo1 | freqHi1 | phase0 | phase1 => cases hr
  | _ => exact absurd h List.not_mem_nil

/-! ### RESET in the mirror and on the wire -/

/-- No instruction sets RESET in the mirror (R20). -/
theorem reset_not_mem_mirrorFields (i : Instr) : .reset ∉ mirrorFields i := by
  cases i <;> simp [mirrorFields]

/-- Some of an instruction's lines leave RESET 0 in the mirror. -/
theorem perform_reset_clear {i : Instr} {s : State} {p : List Micro} (hw : s.cfg.Wf) (hs : s.field .reset = false)
    (hp : p ⊆ passBody i s) : (perform p s).cmd.getLsbD s.cfg.posReset.val = false := by
  refine perform_keeps_bit_clear (fun op hop f hf hj => ?_) hs
  have hreset : CmdField.reset = f := hw.pos_injective (Fin.ext hj)
  exact reset_not_mem_mirrorFields i (hreset ▸ mem_mirrorFields (hp hop) hf)

/-- Settles O41: a word with RESET = 1 is not the mirror, so the lines name it. -/
theorem onlyInitSendsReset : Obligations.OnlyInitSendsReset := by
  intro r s t hw hs ht
  rcases exec_cases (decodeRequest r) s with ⟨st, -, h⟩ | ⟨-, h⟩ <;> rw [h] at ht <;> obtain rfl := Host.Outcome.next.inj ht
  · exact ⟨by simp, hs⟩
  · refine ⟨fun w hmem hcmd hbit => ?_, ?_⟩
    · rcases mem_newFrames_perform hmem with hword | ⟨p, hp, rfl⟩
      · exact (wireTarget_of_mem_words hw (isRequest_decodeRequest r) w hword).resolve_left (not_not_intro hcmd)
      · rw [perform_reset_clear hw hs hp] at hbit
        cases hbit
    · rw [State.field, perform_cfg]
      exact perform_reset_clear hw hs (List.Subset.refl _)

/-! ### The last command word -/

/-- The words of these frames that go to the command register (R33). -/
def commandWords (c : Config) (ws : List Word) : List Word :=
  ws.filter (fun w => decide (wireTarget c w = some .command))

@[simp] theorem commandWords_append (c : Config) (ws vs : List Word) :
    commandWords c (ws ++ vs) = commandWords c ws ++ commandWords c vs :=
  List.filter_append ..

theorem commandWords_command {c : Config} {w : Word} (h : wireTarget c w = some .command) : commandWords c [w] = [w] := by
  simp [commandWords, h]

/-- The line neither writes the mirror nor frames a command word. -/
def Micro.sparesCommand (c : Config) : Micro → Prop
  | .emit _ w => wireTarget c w ≠ some .command
  | .emitCmd => False
  | .clearCmd => False
  | .setBit _ _ => False
  | .holdSetBit _ _ => False
  | _ => True

theorem sparesCommand_applyMicro {op : Micro} {s : State} (h : op.sparesCommand s.cfg) :
    (applyMicro op s).cmd = s.cmd ∧ commandWords s.cfg (newFrames s (applyMicro op s)) = [] := by
  cases op with
  | emit slot w => exact ⟨rfl, by simpa [applyMicro, newFrames_emitFrame, commandWords, Micro.sparesCommand] using h⟩
  | emitCmd | clearCmd | setBit | holdSetBit => cases h
  | _ => exact ⟨by simp [applyMicro], congrArg _ (newFrames_applyMicro_of_not_frames rfl s)⟩

theorem sparesCommand_perform {q : List Micro} {s : State} (h : ∀ op ∈ q, op.sparesCommand s.cfg) :
    (perform q s).cmd = s.cmd ∧ commandWords s.cfg (newFrames s (perform q s)) = [] := by
  induction q generalizing s with
  | nil => exact ⟨rfl, congrArg _ (newFrames_self s)⟩
  | cons op q ih =>
    obtain ⟨hop, hq⟩ := List.forall_mem_cons.mp h
    obtain ⟨hcmd, hwords⟩ := sparesCommand_applyMicro hop
    obtain ⟨hcmd', hwords'⟩ := ih (s := applyMicro op s) (by rwa [applyMicro_cfg])
    rw [applyMicro_cfg] at hwords'
    refine ⟨hcmd'.trans hcmd, ?_⟩
    rw [newFrames_perform_cons, commandWords_append]
    exact List.append_eq_nil_iff.mpr ⟨hwords, hwords'⟩

/-- The lines frame the mirror, and after that neither write it nor frame a command word. -/
def EndsWithMirror (c : Config) (q : List Micro) : Prop :=
  ∃ p r, q = p ++ .emitCmd :: r ∧ ∀ op ∈ r, op.sparesCommand c

theorem EndsWithMirror.append_left {c : Config} {q : List Micro} (h : EndsWithMirror c q) (p : List Micro) :
    EndsWithMirror c (p ++ q) := by
  obtain ⟨p', r, rfl, hr⟩ := h
  exact ⟨p ++ p', r, (List.append_assoc ..).symm, hr⟩

/-- After such lines the last command word is the mirror (R19). -/
theorem EndsWithMirror.getLast? {s : State} {q : List Micro} (h : EndsWithMirror s.cfg q) (hw : s.cfg.Wf)
    (hres : s.cfg.reservedClear s.cmd = true) :
    (commandWords s.cfg (newFrames s (perform q s))).getLast? = some (perform q s).cmd := by
  obtain ⟨p, r, rfl, hr⟩ := h
  have hmirror : wireTarget s.cfg (perform p s).cmd = some .command :=
    wireTarget_command hw (Config.top_of_reservedClear (perform_reservedClear p hres))
  obtain ⟨hcmd, hwords⟩ := sparesCommand_perform (s := emitFrame (perform p s).cmd (perform p s)) (by simpa using hr)
  rw [emitFrame_cfg, perform_cfg] at hwords
  rw [newFrames_perform_append, perform_append, newFrames_perform_cons, perform_cons, applyMicro, newFrames_emitFrame, hcmd]
  simp only [commandWords_append, hwords, commandWords_command hmirror, List.append_nil, List.getLast?_concat, emitFrame_cmd]

/-- A request's own lines end with the mirror, or spare the command register altogether. -/
theorem passBody_endsWithMirror {i : Instr} {s : State} (hw : s.cfg.Wf) (hr : isRequest i = true) :
    EndsWithMirror s.cfg (passBody i s) ∨ ∀ op ∈ passBody i s, op.sparesCommand s.cfg := by
  have done : ∀ op ∈ [Micro.respond .ok 0#64], op.sparesCommand s.cfg := by simp [Micro.sparesCommand]
  cases i with
  | init =>
    rw [passBody, List.append_assoc _ (powerBody false)]
    exact .inl (EndsWithMirror.append_left ⟨[_, _], _, rfl, by simp [Micro.sparesCommand]⟩ _)
  | power d => exact .inl ⟨[_, _], _, rfl, done⟩
  | setMode d => exact .inl (EndsWithMirror.append_left ⟨[_], _, rfl, done⟩ _)
  | setFreq k d => exact .inl ⟨[_, _], _, rfl, by simp [Micro.sparesCommand, wireTarget_split hw]⟩
  | setPhase k d => exact .inr (by simp [passBody, setPhaseBody, Micro.sparesCommand, wireTarget_phaseWord hw])
  | setFreqOut k => exact .inl ⟨[_, _], _, rfl, done⟩
  | setPhaseOut k => exact .inl ⟨[_, _], _, rfl, done⟩
  | cmd | resetw | freqLo0 | freqHi0 | freqLo1 | freqHi1 | phase0 | phase1 => cases hr
  | _ => exact .inr (by simp [passBody, Micro.sparesCommand])

/-- Settles O40: the last command word of a request is its last `Emit(st.cmd)`, and nothing moves the mirror after it. -/
theorem mirrorIsLastCommandWord : Obligations.MirrorIsLastCommandWord := by
  intro r s t hw hres ht cmds hne
  replace hne : commandWords s.cfg (newFrames s t) ≠ [] := hne
  show (commandWords s.cfg (newFrames s t)).getLast? = some t.cmd
  rcases exec_cases (decodeRequest r) s with ⟨st, -, h⟩ | ⟨-, h⟩ <;> rw [h] at ht <;> obtain rfl := Host.Outcome.next.inj ht
  · exact absurd (congrArg _ (newFrames_answered st 0#64 s)) hne
  · rcases passBody_endsWithMirror hw (isRequest_decodeRequest r) with h | h
    · exact h.getLast? hw hres
    · exact absurd (sparesCommand_perform h).2 hne

end Sys2Proof.Machine
end

section
/-! The serial line (20_memory.md R35, R36, R42): a frame is its word's two bytes, and a trace's byte stream is its events'
in order. -/

namespace Sys2Proof.Machine

/-- The two bytes of a word make it up again (R36). -/
theorem wireOfBytes_extractLsb' (w : Word) : wireOfBytes (w.extractLsb' 8 8) (w.extractLsb' 0 8) = w := by
  calc wireOfBytes (w.extractLsb' 8 8) (w.extractLsb' 0 8)
    _ = w.extractLsb' 0 16 := BitVec.extractLsb'_append_extractLsb'_eq_extractLsb' rfl
    _ = w := BitVec.extractLsb'_eq_self

@[simp] theorem traceBytes_nil : traceBytes [] = [] := rfl

@[simp] theorem traceBytes_append (a b : List Event) : traceBytes (a ++ b) = traceBytes a ++ traceBytes b :=
  List.flatMap_append

@[simp] theorem traceBytes_singleton (e : Event) : traceBytes [e] = eventBytes e :=
  List.flatMap_singleton eventBytes e

theorem traceBytes_cons (e : Event) (t : List Event) : traceBytes (e :: t) = eventBytes e ++ traceBytes t :=
  List.flatMap_cons

/-- Settles O10: each event's bytes, and the stream of a trace event by event. -/
theorem framesAreTwoBytesHighFirst : Obligations.FramesAreTwoBytesHighFirst :=
  ⟨fun w => ⟨rfl, wireOfBytes_extractLsb' w⟩, fun w => traceBytes_cons (.frame w), traceBytes_cons .selEnable,
    traceBytes_nil, traceBytes_singleton, traceBytes_append⟩

end Sys2Proof.Machine
end

section
/-! The request port (30_encoding.md R46 to R59): sample words, the header, the reserved codes, the busy block's port, and the
assembler's pseudo-forms. -/

namespace Sys2Proof.Machine

/-! ### Headers and words -/

/-- Settles O6: closed words, decoded under the default layout. -/
theorem sampleWordsDecode : Obligations.SampleWordsDecode := by
  unfold Obligations.SampleWordsDecode
  decide

/-- The two bits between the header's operation code and its index are 0 (R48). -/
theorem extractLsb'_header_gap (op : BitVec 4) (i : BitVec 2) : (op ++ (0b00#2 ++ i)).extractLsb' 2 2 = 0#2 := by
  rw [BitVec.extractLsb'_append_eq_of_add_le (by decide), BitVec.extractLsb'_append_eq_of_le (by decide)]
  rfl

/-- Settles O7: the fields are those of the request read back from its header, and `requestOf` reads no other bits. -/
theorem headerCarriesOpAndIndex : Obligations.HeaderCarriesOpAndIndex := by
  refine ⟨fun r => ?_, fun h g d hop hidx => ?_⟩
  · have hr : requestOf r.header r.data = r := requestOf_header r.op r.idx r.data
    exact ⟨congrArg Request.op hr, extractLsb'_header_gap r.op r.idx, congrArg Request.idx hr, hr⟩
  · simp only [requestOf, hop, hidx]

/-! ### Reserved codes -/

/-- An instruction whose check fails answers the status and changes nothing else (R106). -/
theorem exec_of_checkOf_some {i : Instr} {s : State} {st : Status} (h : checkOf i s = some st) :
    exec i s = .next (answered st 0#64 s) := by
  rw [exec_eq_plan, plan_of_checkOf_some h, perform_reject]

/-- Settles O15: the check turns the four codes away before it looks at the state. -/
theorem reservedCodesAnswerIllegalOp : Obligations.ReservedCodesAnswerIllegalOp := fun _ =>
  ⟨exec_of_checkOf_some rfl, exec_of_checkOf_some rfl, exec_of_checkOf_some rfl, exec_of_checkOf_some rfl⟩

/-! ### The busy block's port -/

/-- Settles O51: a busy block's next cycle is its event's, whatever stands on the port. -/
theorem busyBlockIgnoresRequestPort : Obligations.BusyBlockIgnoresRequestPort := by
  intro p p' s hs hrst hdone
  refine ⟨fun rst => by simp [State.reqReady, State.busy, hs], ?_⟩
  cases hr : p.rst with
  | true => rw [clockEdge_reset s hr, clockEdge_reset s (hrst ▸ hr)]
  | false =>
    have hr' : p'.rst = false := hrst ▸ hr
    match h : s.seq with
    | .idle => exact absurd h hs
    | .busy none q => rw [clockEdge_between hr h, clockEdge_between hr' h]
    | .busy (some ph) q => rw [clockEdge_busy hr h, clockEdge_busy hr' h, hdone]

/-! ### Pseudo-forms -/

/-- Settles O60: closed lines, read by the assembler. -/
theorem assemblerPseudoForms : Obligations.AssemblerPseudoForms := by
  unfold Obligations.AssemblerPseudoForms
  decide +kernel

end Sys2Proof.Machine
end

section
/-! The answer to an accepted request (30_encoding.md R46; 40_frame_controller.md R62 to R70; 60_exceptions.md R110, R114): every
event in progress ends, so a request's lines are performed one after the other, and the answer follows the last frame's gap. -/

namespace Sys2Proof.Machine

/-! ### Beginning the next event -/

/-- Beginning the next event does not look at what the sequencer was doing. -/
theorem advance_setSeq (q : List Micro) (s : State) (x : Seq) : advance q { s with seq := x } = advance q s := by
  induction q generalizing s with
  | nil => rfl
  | cons op q ih =>
    cases op with
    | selEnable | waitInit | emitCmd | emit | respond => rfl
    | _ => simp only [advance, applyMicro_setSeq]; exact ih _

/-- The line is a state write, performed together with the beginning of the event after it (log 10). -/
def Micro.isWrite : Micro → Bool
  | .selEnable | .waitInit | .emitCmd | .emit _ _ | .respond _ _ => false
  | _ => true

/-- The line answers the request. -/
def Micro.responds : Micro → Bool
  | .respond _ _ => true
  | _ => false

theorem advance_cons_of_isWrite {op : Micro} (h : op.isWrite = true) (q : List Micro) (s : State) :
    advance (op :: q) s = advance q (applyMicro op s) := by
  cases op with
  | selEnable | waitInit | emitCmd | emit | respond => cases h
  | _ => rfl

/-- A state write appends nothing to the trace. -/
theorem applyMicro_trace_of_isWrite {op : Micro} (h : op.isWrite = true) (s : State) :
    (applyMicro op s).trace = s.trace := by
  cases op with
  | selEnable | waitInit | emitCmd | emit | respond => cases h
  | _ => simp [applyMicro]

/-- A line other than the answer leaves the response port as it is. -/
theorem applyMicro_resp {op : Micro} (h : op.responds = false) (s : State) : (applyMicro op s).resp = s.resp := by
  cases op with
  | respond => cases h
  | _ => simp [applyMicro]

/-- The hold ends as if the mirror write placed inside it came after the frame. -/
theorem beginHold_eq (w : Word) (q : List Micro) (s : State) :
    ∃ q' c, beginHold w q s = { s with cmd := c, seq := .busy (some (.hold w 0)) q' } ∧
      advance q' (emitFrame w { s with cmd := c }) = advance q (emitFrame w s) := by
  rcases beginHold_cases w q s with ⟨f, b, rest, rfl, h⟩ | ⟨-, h⟩
  · exact ⟨rest, _, h, rfl⟩
  · exact ⟨q, s.cmd, h, rfl⟩

/-! ### A busy block until something holds -/

/-- From cycle `a` on the block is busy, with `x` on the response port, until a cycle of which `P` holds. -/
def BusyUntil (edges : Nat → Pins) (s : State) (x : Option Response) (P : Nat → Prop) (a : Nat) : Prop :=
  ∃ b, a ≤ b ∧ P b ∧ ∀ m, a ≤ m → m < b → (runEdges edges s m).seq ≠ .idle ∧ (runEdges edges s m).resp = x

/-- In cycle `n` the event in progress is at `ph` with the lines `q` after it, and all else is as in `u`. -/
def InPhase (edges : Nat → Pins) (s u : State) (ph : Phase) (q : List Micro) (n : Nat) : Prop :=
  runEdges edges s n = { u with seq := .busy (some ph) q }

/-- Cycle `n` is the last gap cycle of a frame, with `x` on the response port and the trace `tr`, and the next cycle is `v`. -/
structure LastGap (edges : Nat → Pins) (s : State) (x : Option Response) (tr : List Event) (v : State) (n : Nat) : Prop where
  gap : ∃ k q, (runEdges edges s n).seq = .busy (some (.gap k)) q
  resp : (runEdges edges s n).resp = x
  trace : (runEdges edges s n).trace = tr
  next : runEdges edges s (n + 1) = v

/-- In cycle `n` the frame of `w`, begun from `u`, is in its last gap cycle, and the next event of `q` begins after it. -/
abbrev FrameEnds (edges : Nat → Pins) (s u : State) (w : Word) (q : List Micro) : Nat → Prop :=
  LastGap edges s u.resp (emitFrame w u).trace (advance q (emitFrame w u))

section
variable {edges : Nat → Pins} {s u : State} {x : Option Response} {P Q : Nat → Prop} {q : List Micro} {a : Nat}

theorem BusyUntil.now (h : P a) : BusyUntil edges s x P a :=
  ⟨a, Nat.le_refl a, h, fun _ h₁ h₂ => absurd h₁ (Nat.not_le_of_lt h₂)⟩

theorem BusyUntil.bind (h : BusyUntil edges s x P a) (hPQ : ∀ b, P b → BusyUntil edges s x Q b) :
    BusyUntil edges s x Q a := by
  obtain ⟨b, hab, hb, hbusy⟩ := h
  obtain ⟨c, hbc, hc, hbusy'⟩ := hPQ b hb
  refine ⟨c, hab.trans hbc, hc, fun m ha hm => ?_⟩
  rcases Nat.lt_or_ge m b with h | h
  exacts [hbusy m ha h, hbusy' m h hm]

/-- One busy cycle more. -/
theorem BusyUntil.later (hs : (runEdges edges s a).seq ≠ .idle) (hx : (runEdges edges s a).resp = x)
    (h : BusyUntil edges s x P (a + 1)) : BusyUntil edges s x P a := by
  obtain ⟨b, hab, hb, hbusy⟩ := h
  refine ⟨b, by omega, hb, fun m ha hm => ?_⟩
  rcases Nat.eq_or_lt_of_le ha with rfl | ha
  exacts [⟨hs, hx⟩, hbusy m ha hm]

theorem InPhase.later {ph : Phase} (h : InPhase edges s u ph q a) (hP : BusyUntil edges s u.resp P (a + 1)) :
    BusyUntil edges s u.resp P a :=
  .later (by rw [h]; exact nofun) (by rw [h]) hP

variable (hr : ∀ n, (edges n).rst = false)
include hr

theorem InPhase.next {ph : Phase} (h : InPhase edges s u ph q a) :
    runEdges edges s (a + 1) = nextPhase (edges a).txDone ph q { u with seq := .busy (some ph) q } := by
  rw [runEdges, h, clockEdge_busy (hr a) rfl]

/-- An event that counts its cycles reaches the last of them. -/
theorem busyUntil_counted (ph : Nat → Phase) (L : Nat) {k : Nat} (h : InPhase edges s u (ph k) q a)
    (hstay : ∀ d k, ¬ L ≤ k + 1 →
      nextPhase d (ph k) q { u with seq := .busy (some (ph k)) q } = { u with seq := .busy (some (ph (k + 1))) q }) :
    BusyUntil edges s u.resp (fun n => ∃ k, L ≤ k + 1 ∧ InPhase edges s u (ph k) q n) a := by
  induction hm : L - k generalizing k a with
  | zero => exact .now ⟨k, by omega, h⟩
  | succ m ih =>
    by_cases hL : L ≤ k + 1
    · exact .now ⟨k, hL, h⟩
    · exact h.later (ih ((h.next hr).trans (hstay _ k hL)) (by omega))

/-- The wait before INIT's reset word ends, and the next event begins (R70). -/
theorem busyUntil_waited {k : Nat} (h : InPhase edges s u (.wait k) q a) :
    BusyUntil edges s u.resp (fun n => runEdges edges s n = advance q u) a := by
  refine (busyUntil_counted hr .wait u.cfg.nInit h fun d k hL => if_neg hL).bind ?_
  rintro n ⟨k, hL, hn⟩
  refine hn.later (.now ?_)
  rw [hn.next hr, nextPhase, if_pos hL, advance_setSeq]

/-- The gap after a frame ends, and the next event begins (R68). -/
theorem busyUntil_lastGap_of_gap {k : Nat} (h : InPhase edges s u (.gap k) q a) :
    BusyUntil edges s u.resp (LastGap edges s u.resp u.trace (advance q u)) a := by
  refine (busyUntil_counted hr .gap u.cfg.nGap h fun d k hL => if_neg hL).bind ?_
  rintro n ⟨k, hL, hn⟩
  refine .now ⟨⟨k, q, by rw [hn]⟩, by rw [hn], by rw [hn], ?_⟩
  rw [hn.next hr, nextPhase, if_pos hL, advance_setSeq]

/-- The hold ends with the frame's event, and its gap follows (R66). -/
theorem busyUntil_frameEnds_of_hold {w : Word} {k : Nat} (h : InPhase edges s u (.hold w k) q a) :
    BusyUntil edges s u.resp (FrameEnds edges s u w q) a := by
  refine (busyUntil_counted hr (.hold w) u.cfg.nH h fun d k hL => if_neg hL).bind ?_
  rintro n ⟨k, hL, hn⟩
  refine hn.later (busyUntil_lastGap_of_gap (u := emitFrame w u) (k := 0) hr ?_)
  rw [InPhase, hn.next hr, nextPhase, if_pos hL]
  rfl

variable (hfair : AnswersEveryByte edges s)
include hfair

/-- A byte being sent is answered in the end (R114). -/
theorem busyUntil_txDone (ph : Bool → Phase) {b : Bool} (h : InPhase edges s u (ph b) q a)
    (hbyte : ∀ b, ({ u with seq := .busy (some (ph b)) q } : State).txByte.isSome = true)
    (hstay : ∀ b, nextPhase false (ph b) q { u with seq := .busy (some (ph b)) q } =
      { u with seq := .busy (some (ph false)) q }) :
    BusyUntil edges s u.resp (fun n => (edges n).txDone = true ∧ ∃ b, InPhase edges s u (ph b) q n) a := by
  obtain ⟨m, ham, hm⟩ := hfair a (by rw [h]; exact hbyte b)
  induction hk : m - a generalizing a b with
  | zero =>
    obtain rfl : m = a := by omega
    exact .now ⟨hm, b, h⟩
  | succ k ih =>
    cases hd : (edges a).txDone with
    | true => exact .now ⟨hd, b, h⟩
    | false =>
      have hnext : InPhase edges s u (ph false) q (a + 1) := by rw [InPhase, h.next hr, hd, hstay]
      exact h.later (ih hnext (by omega) (by omega))

/-- The low byte is answered, and the hold follows; a mirror write placed inside it is one of the lines `q` (R65). -/
theorem busyUntil_frameEnds_of_lo {w : Word} {b : Bool} (h : InPhase edges s u (.lo w b) q a) :
    BusyUntil edges s u.resp (FrameEnds edges s u w q) a := by
  refine (busyUntil_txDone hr hfair (.lo w) h (fun _ => rfl) fun _ => rfl).bind ?_
  rintro n ⟨hd, b, hn⟩
  refine hn.later ?_
  obtain ⟨q', c, hhold, hadv⟩ := beginHold_eq w q { u with seq := .busy (some (.lo w b)) q }
  have hnext : InPhase edges s { u with cmd := c } (.hold w 0) q' (n + 1) := by
    rw [InPhase, hn.next hr, nextPhase, if_pos hd, hhold]
  refine (busyUntil_frameEnds_of_hold hr hnext).bind fun m hm => .now ⟨hm.gap, hm.resp, hm.trace, ?_⟩
  calc runEdges edges s (m + 1)
    _ = advance q' (emitFrame w { u with cmd := c }) := hm.next
    _ = advance q' (emitFrame w { u with cmd := c, seq := .busy (some (.lo w b)) q }) := (advance_setSeq q' _ _).symm
    _ = advance q (emitFrame w { u with seq := .busy (some (.lo w b)) q }) := hadv
    _ = advance q (emitFrame w u) := advance_setSeq q (emitFrame w u) _

/-- The high byte is answered, and the low byte follows (R65). -/
theorem busyUntil_frameEnds_of_hi {w : Word} {b : Bool} (h : InPhase edges s u (.hi w b) q a) :
    BusyUntil edges s u.resp (FrameEnds edges s u w q) a := by
  refine (busyUntil_txDone hr hfair (.hi w) h (fun _ => rfl) fun _ => rfl).bind ?_
  rintro n ⟨hd, b, hn⟩
  refine hn.later (busyUntil_frameEnds_of_lo (b := true) hr hfair ?_)
  rw [InPhase, hn.next hr, nextPhase, if_pos hd]

/-- The setup time ends, and the high byte follows (R64). -/
theorem busyUntil_frameEnds_of_setup {w : Word} {k : Nat} (h : InPhase edges s u (.setup w k) q a) :
    BusyUntil edges s u.resp (FrameEnds edges s u w q) a := by
  refine (busyUntil_counted hr (.setup w) u.cfg.nSu h fun d k hL => if_neg hL).bind ?_
  rintro n ⟨k, hL, hn⟩
  refine hn.later (busyUntil_frameEnds_of_hi (b := true) hr hfair ?_)
  rw [InPhase, hn.next hr, nextPhase, if_pos hL]

/-! ### A request's lines at cycle level -/

/-- A line that frames a word takes a whole frame, up to its last gap cycle (R62). -/
theorem busyUntil_lastGap_of_frames {op : Micro} (hop : op.frames = true)
    (h : runEdges edges s a = advance (op :: q) u) :
    BusyUntil edges s u.resp (LastGap edges s u.resp (applyMicro op u).trace (advance q (applyMicro op u))) a := by
  cases op with
  | emit slot w => exact busyUntil_frameEnds_of_setup (u := { u with selN := false }) hr hfair h
  | emitCmd => exact busyUntil_frameEnds_of_setup (u := { u with selN := false }) hr hfair h
  | _ => cases hop

/-- Every line but the answer is performed in the end, and the next one's event begins. -/
theorem busyUntil_performed {op : Micro} (hop : op.responds = false) (h : runEdges edges s a = advance (op :: q) u) :
    BusyUntil edges s u.resp (fun n => runEdges edges s n = advance q (applyMicro op u)) a := by
  have frame : op.frames = true →
      BusyUntil edges s u.resp (fun n => runEdges edges s n = advance q (applyMicro op u)) a := fun hf =>
    (busyUntil_lastGap_of_frames hr hfair hf h).bind fun n hn => by
      obtain ⟨k, q', hgap⟩ := hn.gap
      exact .later (by rw [hgap]; exact nofun) hn.resp (.now hn.next)
  cases op with
  | emit | emitCmd => exact frame rfl
  | respond => cases hop
  | selEnable =>
    have hnow : InPhase edges s (selEnable u) .selEnable q a := h
    exact hnow.later (.now ((hnow.next hr).trans (advance_setSeq q _ _)))
  | waitInit => exact busyUntil_waited hr h
  | _ => exact .now h

end

/-! ### The lines of a request end in its answer -/

/-- Nothing but state writes stands before the answer, which is the last line. -/
inductive AnswersAtOnce : List Micro → Prop
  | answer (st : Status) (d : Data) : AnswersAtOnce [.respond st d]
  | write {op : Micro} {q : List Micro} : op.isWrite = true → AnswersAtOnce q → AnswersAtOnce (op :: q)

/-- The answer is the last line, and the last event before it is a frame. -/
inductive AnswersAfterFrame : List Micro → Prop
  | frame {op : Micro} {q : List Micro} : op.frames = true → AnswersAtOnce q → AnswersAfterFrame (op :: q)
  | line {op : Micro} {q : List Micro} : op.responds = false → AnswersAfterFrame q → AnswersAfterFrame (op :: q)

theorem AnswersAfterFrame.append_left {p q : List Micro} (hp : ∀ op ∈ p, op.responds = false)
    (hq : AnswersAfterFrame q) : AnswersAfterFrame (p ++ q) := by
  induction p with
  | nil => exact hq
  | cons op p ih =>
    obtain ⟨hop, hp⟩ := List.forall_mem_cons.mp hp
    exact .line hop (ih hp)

theorem modeBits_responds (m : BitVec 8) (s : State) : ∀ op ∈ modeBits m s, op.responds = false := by
  intro op hop
  rcases mem_modeBits m s op hop with ⟨f, -, b, rfl⟩ | rfl <;> rfl

/-- A request's own lines frame words before the answer, or answer at once. -/
theorem passBody_answers {i : Instr} {s : State} (hr : isRequest i = true) (hc : checkOf i s = none) :
    AnswersAtOnce (passBody i s) ∨ AnswersAfterFrame (passBody i s) := by
  have framed : ∀ {p e}, (∀ op ∈ p, op.responds = false) → e.frames = true →
      AnswersAfterFrame (p ++ [e, .respond .ok 0#64]) := fun hp he => .append_left hp (.frame he (.answer _ _))
  cases i with
  | init =>
    rw [passBody, List.append_assoc _ (powerBody false)]
    refine .inr (.append_left ?_ (.line rfl (.line rfl (.frame rfl (.write rfl (.write rfl (.answer _ _)))))))
    simp [setFreqBody, setPhaseBody, setFreqOutBody, setPhaseOutBody, Micro.responds]
  | power d => exact .inr (framed (p := [_, _]) (by simp [Micro.responds]) rfl)
  | setMode d =>
    exact .inr (.append_left (modeBits_responds _ s) (framed (p := [_]) (by simp [Micro.responds]) rfl))
  | setFreq k d => exact .inr (framed (p := [_, _, _, _]) (by simp [Micro.responds]) rfl)
  | setPhase k d => exact .inr (framed (p := [_]) (by simp [Micro.responds]) rfl)
  | setFreqOut k | setPhaseOut k => exact .inr (framed (p := [_, _]) (by simp [Micro.responds]) rfl)
  | getFreq | getPhase | getFreqOut | getPhaseOut | getMode => exact .inl (.answer _ _)
  | reserved0 | reservedD | reservedE | reservedF => cases hc
  | cmd | resetw | freqLo0 | freqHi0 | freqLo1 | freqHi1 | phase0 | phase1 => cases hr

theorem plan_answers {i : Instr} (s : State) (hr : isRequest i = true) :
    AnswersAtOnce (plan i s) ∨ AnswersAfterFrame (plan i s) := by
  cases hc : checkOf i s with
  | some st => exact plan_of_checkOf_some hc ▸ .inl (.answer st 0#64)
  | none => exact plan_of_checkOf_none hc ▸ passBody_answers hr hc

/-- The state in which lines leave the block in the response cycle. -/
def answering (q : List Micro) (s : State) : State :=
  { perform q s with seq := .busy (some .responding) [] }

/-- State writes and the answer after them take no cycle: the next one is the response cycle. -/
theorem AnswersAtOnce.advance_eq {q : List Micro} (h : AnswersAtOnce q) (s : State) : advance q s = answering q s := by
  induction h generalizing s with
  | answer st d => rfl
  | write hop _ ih => rw [advance_cons_of_isWrite hop, ih, answering, answering, perform_cons]

theorem AnswersAtOnce.perform_trace {q : List Micro} (h : AnswersAtOnce q) (s : State) :
    (perform q s).trace = s.trace := by
  induction h generalizing s with
  | answer st d => rfl
  | write hop _ ih => exact (ih _).trans (applyMicro_trace_of_isWrite hop s)

theorem AnswersAtOnce.perform_resp {q : List Micro} (h : AnswersAtOnce q) (s : State) :
    (perform q s).resp ≠ none := by
  induction h generalizing s with
  | answer st d => exact nofun
  | write _ _ ih => exact ih _

theorem AnswersAfterFrame.perform_resp {q : List Micro} (h : AnswersAfterFrame q) (s : State) :
    (perform q s).resp ≠ none := by
  induction h generalizing s with
  | frame _ hq => exact hq.perform_resp _
  | line _ _ ih => exact ih _

/-- A frame before the answer leaves its event. -/
theorem AnswersAfterFrame.trace_length_lt {q : List Micro} (h : AnswersAfterFrame q) (s : State) :
    s.trace.length < (perform q s).trace.length := by
  induction h generalizing s with
  | @frame op q hop hq =>
    rw [perform_cons, hq.perform_trace]
    cases op with
    | emit | emitCmd => simp [applyMicro]
    | _ => cases hop
  | @line op q _ _ ih =>
    obtain ⟨ev, hev⟩ := applyMicro_trace op s
    have hle : s.trace.length ≤ (applyMicro op s).trace.length := by simp [hev]
    exact hle.trans_lt (ih _)

/-! ### The answer -/

/-- Lines that frame words before their answer are performed up to the last frame's gap, and then answered (R110). -/
theorem busyUntil_answer {edges : Nat → Pins} {s u : State} {q : List Micro} {a : Nat} (hr : ∀ n, (edges n).rst = false)
    (hfair : AnswersEveryByte edges s) (hq : AnswersAfterFrame q) (h : runEdges edges s a = advance q u) :
    BusyUntil edges s u.resp (LastGap edges s u.resp (perform q u).trace (answering q u)) a := by
  induction hq generalizing u a with
  | frame hop hq =>
    exact (busyUntil_lastGap_of_frames hr hfair hop h).bind fun n hn =>
      .now ⟨hn.gap, hn.resp, hn.trace.trans (hq.perform_trace _).symm, hn.next.trans (hq.advance_eq _)⟩
  | line hop _ ih =>
    refine (busyUntil_performed hr hfair hop h).bind fun n hn => ?_
    have hrest := ih hn
    rwa [applyMicro_resp hop] at hrest

/-- The response cycle is one cycle long, and the block is IDLE after it (R46). -/
theorem runEdges_after_answering {edges : Nat → Pins} {s u : State} {q : List Micro} {n : Nat}
    (hr : ∀ n, (edges n).rst = false) (hu : u.seq = .idle) (h : runEdges edges s n = answering q u) :
    runEdges edges s (n + 1) = { perform q u with resp := none } := by
  have hidle : .idle = (perform q u).seq := hu.symm.trans (perform_seq q u).symm
  have hnow : InPhase edges s (perform q u) .responding [] n := h
  rw [hnow.next hr, nextPhase, advance]
  exact congrArg (fun x => { perform q u with seq := x, resp := none }) hidle

/-- Settles O50: lines that frame words are performed up to the last frame's gap; the others are answered at once. -/
theorem acceptedRequestAnswersAsExec : Obligations.AcceptedRequestAnswersAsExec := by
  intro edges s t hr hfair hs hv ht
  obtain rfl := exec_next ht
  have hstart : runEdges edges s 1 = advance (plan (decodeRequest (edges 0).req) { s with resp := none })
      { s with resp := none } := clockEdge_accept (hr 0) hv hs
  have hplan := plan_answers { s with resp := none } (isRequest_decodeRequest (edges 0).req)
  generalize plan (decodeRequest (edges 0).req) { s with resp := none } = q at hstart hplan
  rcases hplan with hq | hq
  · have hanswer := hstart.trans (hq.advance_eq _)
    have htrace : (perform q { s with resp := none }).trace = s.trace := hq.perform_trace _
    exact ⟨0, hanswer, runEdges_after_answering hr hs hanswer, hq.perform_resp _, fun m hm => absurd hm m.not_lt_zero,
      fun hne => absurd (newFrames_of_trace_eq htrace) hne, fun _ => rfl⟩
  · obtain ⟨n, hn, hlast, hbusy⟩ := busyUntil_answer hr hfair hq hstart
    obtain ⟨k, q', hgap⟩ := hlast.gap
    have hlt : s.trace.length < (perform q { s with resp := none }).trace.length :=
      hq.trace_length_lt { s with resp := none }
    refine ⟨n, hlast.next, runEdges_after_answering hr hs hlast.next, hq.perform_resp _, fun m hm => ?_,
      fun _ => ⟨hlast.trace, k, q', hgap⟩, fun e => absurd (congrArg List.length e) hlt.ne'⟩
    have hcycle : (runEdges edges s (m + 1)).seq ≠ .idle ∧ (runEdges edges s (m + 1)).resp = none := by
      rcases Nat.lt_or_eq_of_le hm with h | rfl
      · exact hbusy (m + 1) (by omega) h
      · exact ⟨by rw [hgap]; exact nofun, hlast.resp⟩
    exact ⟨by rw [State.respValid, hcycle.2]; rfl, hcycle.1⟩

end Sys2Proof.Machine
end

section
/-! The frame controller (40_frame_controller.md R62 to R72): where select falls, how long an event that counts its cycles lasts,
and how long a byte is held; then INIT's wait before its first frame. -/

namespace Sys2Proof

/-- The wait before INIT's first frame is at least one cycle in a legal configuration (R10). -/
theorem Config.Wf.nInit_pos {c : Config} (h : c.Wf) : 0 < c.nInit := by
  obtain ⟨-, -, -, -, -, -, -, -, -, hclk, -, -, -, hinit, -⟩ := h
  refine Nat.pos_of_ne_zero fun h0 => ?_
  rw [h0, Nat.zero_mul] at hinit
  omega

end Sys2Proof

namespace Sys2Proof.Machine

/-! ### No state stops the machine -/

/-- Settles O4: an edge and an internal move answer a next state, and so does every instruction. -/
theorem stepAlwaysAnswersNext : Obligations.StepAlwaysAnswersNext := by
  intro s
  unfold step
  split
  · exact ⟨_, rfl⟩
  · exact ⟨_, exec_eq_plan _ _⟩
  · exact ⟨_, rfl⟩

/-- Settles O38: each wire word's one line is its frame; FREQ_HI's word is its tag with 12 bits below it. -/
theorem wireWordsAppendTheirFrame : Obligations.WireWordsAppendTheirFrame := by
  intro s w l h p
  have frame : ∀ u, .next (emitFrame u s) = (.next (emitted [u] s) : Host.Outcome State Fault Refusal) := fun u =>
    congrArg _ (emitFrame_eq_emitted u s)
  exact ⟨frame w, frame (resetWord s.cfg), frame (freqWord s.cfg .b0 l), freqHighWord_eq s.cfg .b0 h ▸ frame _,
    frame (freqWord s.cfg .b1 l), freqHighWord_eq s.cfg .b1 h ▸ frame _, frame (phaseWord s.cfg .b0 p),
    frame (phaseWord s.cfg .b1 p)⟩

/-! ### A stray `tx_done` -/

/-- The next cycle of an event that sends no byte does not depend on `tx_done` (R65). -/
theorem nextPhase_of_txByte_none {s : State} {ph : Phase} {q : List Micro} (hs : s.seq = .busy (some ph) q)
    (hb : s.txByte = none) (d d' : Bool) : nextPhase d ph q s = nextPhase d' ph q s := by
  cases ph with
  | hi | lo => simp [State.txByte, hs] at hb
  | _ => rfl

/-- Settles O58: only the event in progress looks at `tx_done`, and only to end a byte. -/
theorem strayTxDoneIsIgnored : Obligations.StrayTxDoneIsIgnored := by
  intro p p' s hrst hvalid hreq hb
  cases hr : p.rst with
  | true => rw [clockEdge_reset s hr, clockEdge_reset s (hrst ▸ hr)]
  | false =>
    have hr' : p'.rst = false := hrst ▸ hr
    match hs : s.seq with
    | .busy none q => rw [clockEdge_between hr hs, clockEdge_between hr' hs]
    | .busy (some ph) q => rw [clockEdge_busy hr hs, clockEdge_busy hr' hs, nextPhase_of_txByte_none hs hb]
    | .idle =>
      cases hv : p.reqValid with
      | false => rw [clockEdge_idle hr hv hs, clockEdge_idle hr' (hvalid ▸ hv) hs]
      | true => rw [clockEdge_accept hr hv hs, clockEdge_accept hr' (hvalid ▸ hv) hs, hreq]

/-! ### Where select falls -/

theorem nextFrame_cons_of_isWrite {op : Micro} (h : op.isWrite = true) (q : List Micro) (s : State) :
    nextFrame (op :: q) s = nextFrame q (applyMicro op s) := by
  cases op with
  | selEnable | waitInit | emitCmd | emit | respond => cases h
  | _ => rfl

/-- The next frame does not depend on the response port. -/
theorem nextFrame_setResp (q : List Micro) (s : State) (x : Option Response) :
    nextFrame q { s with resp := x } = nextFrame q s := by
  induction q generalizing s x with
  | nil => rfl
  | cons op q ih =>
    cases hop : op.isWrite with
    | true =>
      obtain ⟨y, hy⟩ := applyMicro_setResp op s x
      rw [nextFrame_cons_of_isWrite hop, nextFrame_cons_of_isWrite hop, hy, ih]
    | false =>
      cases op with
      | selEnable | waitInit | emitCmd | emit | respond => rfl
      | _ => cases hop

/-- When the beginning of the next event lowers select, that event is the next frame, in F_SETUP(0) (R63). -/
theorem advance_selN_falls {q : List Micro} {s : State} (hN : s.selN = true) (hfall : (advance q s).selN = false) :
    ∃ w q', nextFrame q s = some (w, q') ∧ (advance q s).seq = .busy (some (.setup w 0)) q' := by
  induction q generalizing s with
  | nil => exact absurd (hN.symm.trans hfall) nofun
  | cons op q ih =>
    cases hop : op.isWrite with
    | true =>
      rw [advance_cons_of_isWrite hop] at hfall ⊢
      rw [nextFrame_cons_of_isWrite hop]
      exact ih (applyMicro_selN op hN) hfall
    | false =>
      cases op with
      | emit slot w => exact ⟨w, q, rfl, rfl⟩
      | emitCmd => exact ⟨s.cmd, q, rfl, rfl⟩
      | selEnable => exact absurd ((applyMicro_selN .selEnable hN).symm.trans hfall) nofun
      | waitInit | respond => exact absurd (hN.symm.trans hfall) nofun
      | _ => cases hop

/-- The next cycle of an event begins the event after it, or leaves select high if it was. -/
theorem nextPhase_advances_or_selN (d : Bool) (ph : Phase) (q : List Micro) {s : State} (hN : s.selN = true) :
    (∃ x, nextPhase d ph q s = advance q { s with resp := x }) ∨ (nextPhase d ph q s).selN = true := by
  have adv : ∃ x, advance q s = advance q { s with resp := x } := ⟨s.resp, rfl⟩
  cases ph with
  | selEnable => exact .inl adv
  | responding => exact .inl ⟨none, rfl⟩
  | hi => exact .inr hN
  | lo w first =>
    simp only [nextPhase]
    split_ifs
    · rcases beginHold_cases w q s with ⟨f, b, rest, -, e⟩ | ⟨-, e⟩ <;> exact .inr (by rw [e]; exact hN)
    · exact .inr hN
  | setup =>
    simp only [nextPhase]
    split_ifs <;> exact .inr hN
  | hold =>
    simp only [nextPhase]
    split_ifs
    exacts [.inr rfl, .inr hN]
  | wait | gap =>
    simp only [nextPhase]
    split_ifs
    exacts [.inl adv, .inr hN]

theorem linesAt_busy (p : Pins) {s : State} {cur : Option Phase} {q : List Micro} (hs : s.seq = .busy cur q) :
    linesAt p s = q := by
  simp only [linesAt, hs]

theorem linesAt_accept {p : Pins} {s : State} (hv : p.reqValid = true) (hs : s.seq = .idle) :
    linesAt p s = plan (decodeRequest p.req) s := by
  simp only [linesAt, hs, hv, if_true]

/-- An edge without reset begins the next event of the lines at hand, or leaves select high if it was. -/
theorem clockEdge_advances_or_selN {p : Pins} {s : State} (hr : p.rst = false) (hN : s.selN = true) :
    (∃ x, clockEdge p s = advance (linesAt p s) { s with resp := x }) ∨ (clockEdge p s).selN = true := by
  match hs : s.seq with
  | .busy none q =>
    rw [clockEdge_between hr hs, linesAt_busy p hs, ← hs]
    exact .inl ⟨s.resp, rfl⟩
  | .busy (some ph) q =>
    rw [clockEdge_busy hr hs, linesAt_busy p hs, ← hs]
    exact nextPhase_advances_or_selN _ ph q hN
  | .idle =>
    cases hv : p.reqValid with
    | false => exact .inr (by rw [clockEdge_idle hr hv hs]; exact hN)
    | true =>
      rw [clockEdge_accept hr hv hs, accept, plan_setResp, linesAt_accept hv hs, ← hs]
      exact .inl ⟨none, rfl⟩

/-- An edge at which select falls enters F_SETUP(0) of the next frame (R63, R64). -/
theorem clockEdge_selN_falls {p : Pins} {s : State} (hr : p.rst = false) (hN : s.selN = true)
    (hfall : (clockEdge p s).selN = false) :
    ∃ w q, nextFrame (linesAt p s) s = some (w, q) ∧ (clockEdge p s).seq = .busy (some (.setup w 0)) q := by
  rcases clockEdge_advances_or_selN hr hN with ⟨x, hx⟩ | h
  · rw [hx] at hfall ⊢
    rw [← nextFrame_setResp _ s x]
    exact advance_selN_falls (s := { s with resp := x }) hN hfall
  · exact absurd (h.symm.trans hfall) nofun

/-! ### Edges within one event -/

theorem clockEdges_concat (ps : List Pins) (p : Pins) (s : State) :
    clockEdges (ps ++ [p]) s = clockEdge p (clockEdges ps s) := by
  induction ps generalizing s with
  | nil => rfl
  | cons _ _ ih => exact ih _

section
variable {ps : List Pins} {s : State} {q : List Micro}

/-- Edges that take the event in progress from each of its cycles to the one after it change nothing but the cycle. -/
theorem clockEdges_phases (ph : Nat → Phase) (hs : s.seq = .busy (some (ph 0)) q) (hr : ∀ p ∈ ps, p.rst = false)
    (hmove : ∀ p ∈ ps, ∀ k < ps.length, nextPhase p.txDone (ph k) q { s with seq := .busy (some (ph k)) q } =
      { s with seq := .busy (some (ph (k + 1))) q }) :
    clockEdges ps s = { s with seq := .busy (some (ph ps.length)) q } := by
  induction ps generalizing s ph with
  | nil => rw [clockEdges, List.length_nil, ← hs]
  | cons p ps ih =>
    have hedge : clockEdge p s = { s with seq := .busy (some (ph 1)) q } := by
      rw [clockEdge_busy (hr p List.mem_cons_self) hs, ← hmove p List.mem_cons_self 0 (Nat.succ_pos _), ← hs]
    rw [clockEdges, hedge]
    exact ih (fun k => ph (k + 1)) rfl (fun x hx => hr x (List.mem_cons_of_mem _ hx))
      fun x hx k hk => hmove x (List.mem_cons_of_mem _ hx) (k + 1) (Nat.succ_lt_succ hk)

section
variable {L : Nat} (ph : Nat → Phase) (hs : s.seq = .busy (some (ph 0)) q) (hr : ∀ p ∈ ps, p.rst = false)
  (hstay : ∀ d k, ¬ L ≤ k + 1 →
    nextPhase d (ph k) q { s with seq := .busy (some (ph k)) q } = { s with seq := .busy (some (ph (k + 1))) q })
include hs hr hstay

/-- For fewer than `L` edges an event of `L` cycles changes nothing but its count. -/
theorem clockEdges_counted (hL : ps.length < L) :
    clockEdges ps s = { s with seq := .busy (some (ph ps.length)) q } :=
  clockEdges_phases ph hs hr fun _ _ k hk => hstay _ k (by omega)

/-- After `L` edges an event of `L` cycles has ended. -/
theorem clockEdges_counted_end {t : State} (hpos : 0 < L)
    (hend : ∀ d k, L ≤ k + 1 → nextPhase d (ph k) q { s with seq := .busy (some (ph k)) q } = t) (hL : ps.length = L) :
    clockEdges ps s = t := by
  rcases List.eq_nil_or_concat' ps with rfl | ⟨ps, p, rfl⟩
  · exact absurd hL hpos.ne
  · rw [List.length_append, List.length_singleton] at hL
    have hr' : ∀ x ∈ ps, x.rst = false := fun x hx => hr x (List.mem_append_left _ hx)
    rw [clockEdges_concat, clockEdges_counted ph hs hr' hstay (by omega),
      clockEdge_busy (hr p (by simp)) rfl, hend _ _ hL.ge]

end

/-- Without `tx_done` the byte being sent is held (R65, R126). -/
theorem clockEdges_unanswered (ph : Bool → Phase) {b : Bool} (hs : s.seq = .busy (some (ph b)) q)
    (hps : ∀ p ∈ ps, p.rst = false ∧ p.txDone = false)
    (hstay : ∀ b, nextPhase false (ph b) q { s with seq := .busy (some (ph b)) q } =
      { s with seq := .busy (some (ph false)) q }) :
    clockEdges ps s = { s with seq := .busy (some (ph (b && ps.isEmpty))) q } := by
  cases ps with
  | nil => rw [clockEdges, List.isEmpty_nil, Bool.and_true, ← hs]
  | cons p ps =>
    rw [List.isEmpty_cons, Bool.and_false]
    refine clockEdges_phases (fun | 0 => ph b | _ + 1 => ph false) hs (fun x hx => (hps x hx).1) fun x hx k _ => ?_
    rw [(hps x hx).2]
    cases k <;> exact hstay _

/-- The low byte's `tx_done` begins the hold (R65). -/
theorem clockEdge_lo_answered {p : Pins} {w : Word} {first : Bool} (hr : p.rst = false) (hd : p.txDone = true)
    (hs : s.seq = .busy (some (.lo w first)) q) : clockEdge p s = beginHold w q s := by
  rw [clockEdge_busy hr hs, nextPhase, if_pos hd]

/-! ### The events that count their cycles -/

section
variable {w : Word} (hr : ∀ p ∈ ps, p.rst = false)
include hr

/-- During the setup time nothing but its count changes (R64). -/
theorem clockEdges_setup (hs : s.seq = .busy (some (.setup w 0)) q) (hL : ps.length < s.cfg.nSu) :
    clockEdges ps s = { s with seq := .busy (some (.setup w ps.length)) q } :=
  clockEdges_counted (L := s.cfg.nSu) (.setup w) hs hr (fun _ _ h => if_neg h) hL

/-- After the setup time the high byte is started (R64). -/
theorem clockEdges_setup_end (hs : s.seq = .busy (some (.setup w 0)) q) (hpos : 0 < s.cfg.nSu)
    (hL : ps.length = s.cfg.nSu) : clockEdges ps s = { s with seq := .busy (some (.hi w true)) q } :=
  clockEdges_counted_end (L := s.cfg.nSu) (.setup w) hs hr (fun _ _ h => if_neg h) hpos (fun _ _ h => if_pos h) hL

/-- During the hold nothing but its count changes (R66). -/
theorem clockEdges_hold (hs : s.seq = .busy (some (.hold w 0)) q) (hL : ps.length < s.cfg.nH) :
    clockEdges ps s = { s with seq := .busy (some (.hold w ps.length)) q } :=
  clockEdges_counted (L := s.cfg.nH) (.hold w) hs hr (fun _ _ h => if_neg h) hL

/-- After the hold select rises and the frame's event is in the trace (R66). -/
theorem clockEdges_hold_end (hs : s.seq = .busy (some (.hold w 0)) q) (hpos : 0 < s.cfg.nH) (hL : ps.length = s.cfg.nH) :
    clockEdges ps s = { emitFrame w s with seq := .busy (some (.gap 0)) q } :=
  clockEdges_counted_end (L := s.cfg.nH) (.hold w) hs hr (fun _ _ h => if_neg h) hpos (fun _ _ h => if_pos h) hL

/-- During the gap nothing but its count changes (R68). -/
theorem clockEdges_gap (hs : s.seq = .busy (some (.gap 0)) q) (hL : ps.length < s.cfg.nGap) :
    clockEdges ps s = { s with seq := .busy (some (.gap ps.length)) q } :=
  clockEdges_counted (L := s.cfg.nGap) .gap hs hr (fun _ _ h => if_neg h) hL

/-- During INIT's wait nothing but its count changes (R70). -/
theorem clockEdges_wait (hs : s.seq = .busy (some (.wait 0)) q) (hL : ps.length < s.cfg.nInit) :
    clockEdges ps s = { s with seq := .busy (some (.wait ps.length)) q } :=
  clockEdges_counted (L := s.cfg.nInit) .wait hs hr (fun _ _ h => if_neg h) hL

/-- After INIT's wait the next event begins (R70). -/
theorem clockEdges_wait_end (hs : s.seq = .busy (some (.wait 0)) q) (hpos : 0 < s.cfg.nInit)
    (hL : ps.length = s.cfg.nInit) : clockEdges ps s = advance q s :=
  clockEdges_counted_end (L := s.cfg.nInit) .wait hs hr (fun _ _ h => if_neg h) hpos
    (fun _ _ h => (if_pos h).trans (advance_setSeq q s _)) hL

end

/-! ### INIT's wait -/

/-- From `SelEnable`'s cycle with the wait next, an edge enters the wait (R69, R70). -/
theorem clockEdge_selEnable_waitInit {p : Pins} (hr : p.rst = false)
    (hs : s.seq = .busy (some .selEnable) (.waitInit :: q)) :
    clockEdge p s = { s with seq := .busy (some (.wait 0)) q } := by
  rw [clockEdge_busy hr hs, nextPhase, advance]

@[simp] theorem accept_cfg (r : Request) (s : State) : (accept r s).cfg = s.cfg :=
  advance_cfg _ s

/-- An accepted INIT drives the pin; the wait, the reset word's frame and the mirror write in its hold come next (R72). -/
theorem accept_init {r : Request} (hop : r.op = 0x1#4) (s : State) :
    (accept r s).selOe = true ∧ ∃ q, (accept r s).seq = .busy (some .selEnable)
      (.waitInit :: .emit .any (resetWord s.cfg) :: .holdSetBit .sleep12 true :: q) := by
  have hi : decodeRequest r = .init := by simp only [decodeRequest, hop]; rfl
  rw [accept, hi, plan_of_checkOf_none rfl]
  exact ⟨rfl, _, rfl⟩

section
variable (hr : ∀ p ∈ ps, p.rst = false) (hs : s.seq = .busy (some .selEnable) (.waitInit :: q))
include hr hs

/-- For `N_INIT` cycles after `SelEnable`'s cycle nothing but the sequencer moves, and it is at no frame (R70, R125). -/
theorem clockEdges_selEnable_waitInit (hL : ps.length ≤ s.cfg.nInit) :
    ∃ ph q', clockEdges ps s = { s with seq := .busy (some ph) q' } ∧ (ph = .selEnable ∨ ∃ k, ph = .wait k) := by
  cases ps with
  | nil => exact ⟨.selEnable, .waitInit :: q, by rw [clockEdges, ← hs], .inl rfl⟩
  | cons p ps =>
    obtain ⟨hp, hps⟩ := List.forall_mem_cons.mp hr
    rw [clockEdges, clockEdge_selEnable_waitInit hp hs]
    exact ⟨.wait ps.length, q, clockEdges_wait hps rfl hL, .inr ⟨_, rfl⟩⟩

/-- After `SelEnable`'s cycle and the wait the event after the wait begins (R70). -/
theorem clockEdges_selEnable_waitInit_end (hpos : 0 < s.cfg.nInit) (hL : ps.length = s.cfg.nInit + 1) :
    clockEdges ps s = advance q s := by
  cases ps with
  | nil => exact absurd hL (Nat.succ_ne_zero _).symm
  | cons p ps =>
    obtain ⟨hp, hps⟩ := List.forall_mem_cons.mp hr
    rw [clockEdges, clockEdge_selEnable_waitInit hp hs,
      clockEdges_wait_end (s := { s with seq := .busy (some (.wait 0)) q }) hps rfl hpos (Nat.succ.inj hL), advance_setSeq]

end

end

/-! ### The times the frame controller keeps -/

/-- Settles O52: select falls into F_SETUP(0) of the next frame only, and the setup counts its cycles. -/
theorem setupTimeIsKept : Obligations.SetupTimeIsKept := by
  refine ⟨fun _ _ => clockEdge_selN_falls, fun ps s w q hw hr hs => ⟨fun hL => ?_, fun hL => ?_⟩⟩
  · rw [clockEdges_setup hr hs hL]
    exact ⟨rfl, rfl, rfl⟩
  · rw [clockEdges_setup_end hr hs hw.nSu_pos hL]
    exact ⟨rfl, rfl⟩

/-- Settles O53: an unanswered byte is held, and its `tx_done` starts the low byte or begins the hold. -/
theorem twoBytesAreStarted : Obligations.TwoBytesAreStarted := by
  intro ps p s w q hps hr hd
  refine ⟨fun hs => ?_, fun hs => ?_⟩
  · have hstart : s.txStart = true := by rw [State.txStart, hs]
    rw [clockEdges_unanswered (.hi w) hs hps fun _ => rfl, clockEdge_busy hr rfl, nextPhase, if_pos hd]
    exact ⟨hstart, rfl, rfl, rfl, rfl⟩
  · have hstart : s.txStart = true := by rw [State.txStart, hs]
    rw [clockEdges_unanswered (.lo w) hs hps fun _ => rfl, clockEdge_lo_answered hr hd rfl]
    refine ⟨hstart, rfl, rfl, ?_⟩
    rcases beginHold_cases w q { s with seq := .busy (some (.lo w (true && ps.isEmpty))) q } with
      ⟨f, b, rest, rfl, e⟩ | ⟨-, e⟩ <;> rw [e]
    · exact ⟨⟨rest, rfl, .inr ⟨f, b, rfl⟩⟩, rfl⟩
    · exact ⟨⟨q, rfl, .inl rfl⟩, rfl⟩

/-- Settles O54: the hold begins with its mirror write or none, and counts its cycles. -/
theorem holdTimeIsKept : Obligations.HoldTimeIsKept := by
  refine ⟨fun p s w first q hr hd hs => ?_, fun ps s w q hw hr hs =>
    ⟨clockEdges_hold hr hs, clockEdges_hold_end hr hs hw.nH_pos⟩⟩
  rw [clockEdge_lo_answered hr hd hs]
  refine ⟨fun f b rest hq => by rw [hq]; rfl, fun hq => ?_⟩
  rcases beginHold_cases w q s with ⟨f, b, rest, e, -⟩ | ⟨-, e⟩
  exacts [absurd e (hq f b rest), e]

/-- Settles O55: INIT's lines begin with the pin, the wait and the reset word, and the wait and the gap count their cycles. -/
theorem gapAndWaitAreKept : Obligations.GapAndWaitAreKept := by
  refine ⟨fun p s q => clockEdge_selEnable_waitInit, fun p ps s hw hp hr hs hv hop => ?_,
    fun ps s q hr => ⟨clockEdges_gap hr, clockEdges_wait hr⟩⟩
  obtain ⟨hoe, q, hseq⟩ := accept_init hop { s with resp := none }
  have hcfg : (accept p.req { s with resp := none }).cfg = s.cfg := accept_cfg p.req _
  rw [clockEdge_accept hp hv hs]
  refine ⟨hoe, ⟨_, hseq⟩, fun hL => ?_, fun hL => ?_⟩
  · obtain ⟨ph, q', e, hph⟩ := clockEdges_selEnable_waitInit hr hseq (by rwa [hcfg])
    rw [e]
    exact ⟨rfl, rfl, ph, q', rfl, hph⟩
  · rw [clockEdges_selEnable_waitInit_end hr hseq (by rw [hcfg]; exact hw.nInit_pos) (by rwa [hcfg])]
    exact ⟨rfl, q, rfl⟩

end Sys2Proof.Machine
end

section
/-! INIT and POWER (41_init_power.md R72 to R76): what the body of each operation that frames words does to the state, and the two
requests made of these bodies. -/

namespace Sys2Proof.Machine

/-! ### The check -/

/-- An instruction whose check passes performs its own lines. -/
theorem exec_of_checkOf_none {i : Instr} {s : State} (h : checkOf i s = none) : exec i s = .next (perform (passBody i s) s) := by
  rw [exec_eq_plan, plan_of_checkOf_none h]

/-- Before INIT every code from 0x2 to 0xC is turned away (R105). -/
theorem checkRequest_before_init {op : BitVec 4} {s : State} (hlo : 0x1#4 < op) (hhi : op < 0xD#4) (hs : s.init = false)
    (idx : BitVec 2) (d : Data) : checkRequest op idx d s = some .notInit := by
  have hres : ¬ (op = 0x0#4 ∨ 0xD#4 ≤ op) := by bv_omega
  have hinit : op ≠ 0x1#4 := by bv_omega
  rw [checkRequest, if_neg hres, if_pos ⟨hinit, hs⟩]

/-- After INIT the codes from 0x1 to 0xC whose index is not looked at pass their check (R104). -/
theorem checkRequest_not_indexed {op : BitVec 4} {s : State} (hlo : 0x0#4 < op) (hhi : op < 0xD#4) (hx : indexed op = false)
    (hs : s.init = true) (idx : BitVec 2) (d : Data) : checkRequest op idx d s = none := by
  have hres : ¬ (op = 0x0#4 ∨ 0xD#4 ≤ op) := by bv_omega
  have hfreq : op ≠ 0x4#4 := by rintro rfl; cases hx
  simp [checkRequest, hres, hfreq, hx, hs]

/-! ### The bodies -/

theorem setBit_true (w : Word) (p : Nat) : setBit w p true = w ||| (1#16 <<< p) := rfl

/-- Writing the value a bit already has changes nothing. -/
theorem setBit_eq_self {w : Word} {p : Nat} {b : Bool} (hp : p < 16) (h : w.getLsbD p = b) : setBit w p b = w := by
  apply BitVec.eq_of_getLsbD_eq
  intro j _
  rw [setBit_getLsbD w p b j hp]
  split_ifs with hj
  exacts [hj ▸ h.symm, rfl]

/-- `SetFreqBody` (R87): the cache, B28, and three frames. -/
theorem perform_setFreqBody (c : Config) (i : Bank) (f : Data) (s : State) :
    perform (setFreqBody c i f) s =
      emitted [setBit s.cmd s.cfg.posB28.val true, (split c i (scale c f)).1, (split c i (scale c f)).2]
        { writeFreq i f s with cmd := setBit s.cmd s.cfg.posB28.val true } := by
  cases i <;> simp [setFreqBody, applyMicro, emitFrame_eq_emitted, writeFreq, Config.pos]

/-- `SetPhaseBody` (R92): the cache and one frame. -/
theorem perform_setPhaseBody (c : Config) (i : Bank) (p : PhaseVal) (s : State) :
    perform (setPhaseBody c i p) s = emitted [phaseWord c i p] (writePhase i p s) := rfl

/-- `SetFreqOutBody` (R94): the select bit, its cache, and one frame of the mirror. -/
theorem perform_setFreqOutBody (b : Bool) (s : State) :
    perform (setFreqOutBody b) s =
      emitted [setBit s.cmd s.cfg.posFsel.val b] { s with cmd := setBit s.cmd s.cfg.posFsel.val b, fsel := b } := rfl

/-- `SetPhaseOutBody` (R95): the select bit, its cache, and one frame of the mirror. -/
theorem perform_setPhaseOutBody (b : Bool) (s : State) :
    perform (setPhaseOutBody b) s =
      emitted [setBit s.cmd s.cfg.posPsel.val b] { s with cmd := setBit s.cmd s.cfg.posPsel.val b, psel := b } := rfl

/-- `PowerBody` (R76): both sleep bits, and one frame of the mirror. -/
theorem perform_powerBody (on : Bool) (s : State) :
    perform (powerBody on) s =
      emitted [setBit (setBit s.cmd s.cfg.posSleep1.val (!on)) s.cfg.posSleep12.val (!on)]
        { s with cmd := setBit (setBit s.cmd s.cfg.posSleep1.val (!on)) s.cfg.posSleep12.val (!on) } := rfl

/-! ### POWER -/

/-- Settles O20: the check passes exactly with `st.init = 1`, and then the body and the answer are performed. -/
theorem powerWritesBothSleepBits : Obligations.PowerWritesBothSleepBits := by
  refine ⟨fun s d hs => ?_, fun s d hs => ?_, fun _ _ => rfl⟩
  · have hb : decide (d = 0#64) = !powerOn d := (Bool.not_not _).symm
    have hc : checkOf (.power d) s = none := checkRequest_not_indexed (by decide) (by decide) rfl hs _ d
    rw [exec_of_checkOf_none hc, passBody, perform_append, perform_powerBody, hb]
    rfl
  · exact exec_of_checkOf_some (checkRequest_before_init (by decide) (by decide) hs _ d)

/-! ### The words of INIT -/

/-- The tuning word of +0.0 Hz is 0, whatever `F_MCLK` is (R85). -/
theorem scale_zero (c : Config) : scale c 0#64 = 0#28 := by
  have hsig : significand 0#64 = 0 := by decide
  have hmag : scaleMag c 0#64 = 0 := by
    rw [scaleMag, hsig, roundHalfUp]
    simp only [Nat.zero_mul, Nat.mul_zero, Nat.zero_add]
    generalize 2 ^ (1075 - scaleExp 0#64) * c.fMclkNum = d
    rw [Nat.div_eq_zero_iff]
    omega
  simp [scale, hmag]

/-- Both transfers of the tuning word 0 are the bare tag (R86). -/
theorem split_zero (c : Config) (i : Bank) : split c i 0#28 = (c.freqTag i, c.freqTag i) := by
  simp [split]

/-- The phase word of 0 is the bare tag (R56). -/
theorem phaseWord_zero (c : Config) (i : Bank) : phaseWord c i 0#12 = c.phaseTag i := by
  simp [phaseWord]

/-- INIT's mirror between its reset word and its last line: B28 and SLEEP12 (R73). -/
def bootWord (c : Config) : Word :=
  (1#16 <<< c.posB28.val) ||| (1#16 <<< c.posSleep12.val)

/-- The mirror INIT leaves: the two sleep bits and B28 (R74). -/
def offWord (c : Config) : Word :=
  bootWord c ||| (1#16 <<< c.posSleep1.val)

/-- R73's twelve words. -/
def initWords (c : Config) : List Word :=
  [resetWord c, bootWord c, c.freqTag0, c.freqTag0, bootWord c, c.freqTag1, c.freqTag1, c.phaseTag0, c.phaseTag1,
    bootWord c, bootWord c, offWord c]

/-- The state after INIT (R74). -/
def booted (s : State) : State :=
  { s with
    cmd := offWord s.cfg, freq0 := 0#64, freq1 := 0#64, phase0 := 0#12, phase1 := 0#12, fsel := false, psel := false,
    mode := modeOff, init := true, selOe := true, selN := true, resp := some { status := .ok, data := 0#64 },
    trace := s.trace ++ .selEnable :: (initWords s.cfg).map Event.frame }

/-- `bootWord` bit by bit, at the positions a field can have. -/
theorem getLsbD_bootWord (c : Config) (p : Fin 14) :
    (bootWord c).getLsbD p.val = decide (p = c.posB28 ∨ p = c.posSleep12) := by
  rw [bootWord, BitVec.getLsbD_or, getLsbD_bit _ _ (by omega), getLsbD_bit _ _ (by omega), Bool.decide_or]
  simp only [Fin.val_inj]

/-- B28 and SLEEP12 set in the cleared mirror. -/
theorem setBit_zero_eq_bootWord (c : Config) :
    setBit (setBit 0x0000#16 c.posB28.val true) c.posSleep12.val true = bootWord c := by
  rw [setBit_true, setBit_true, BitVec.zero_or, bootWord]

/-- SET_FREQ forces B28, which is set already. -/
theorem setBit_bootWord_b28 (c : Config) : setBit (bootWord c) c.posB28.val true = bootWord c :=
  setBit_eq_self (by omega) (by simp [getLsbD_bootWord])

/-- The last POWER(off) adds SLEEP1; SLEEP12 is set already. -/
theorem setBit_bootWord_sleeps (c : Config) :
    setBit (setBit (bootWord c) c.posSleep1.val true) c.posSleep12.val true = offWord c := by
  have hsleep12 : (offWord c).getLsbD c.posSleep12.val = true := by simp [offWord, getLsbD_bootWord]
  exact setBit_eq_self (by omega) hsleep12

/-! ### INIT -/

/-- INIT, whole (R72), as its bodies one after another. It needs of the layout only that writing 0 to the select bits leaves B28
and SLEEP12 set. -/
theorem exec_init {s : State} (hfsel : (bootWord s.cfg).getLsbD s.cfg.posFsel.val = false)
    (hpsel : (bootWord s.cfg).getLsbD s.cfg.posPsel.val = false) : exec .init s = .next (booted s) := by
  have hc : checkOf .init s = none := rfl
  have hf := setBit_eq_self (by omega) hfsel
  have hp := setBit_eq_self (by omega) hpsel
  rw [exec_of_checkOf_none hc]
  simp only [passBody, perform_append, perform_setFreqBody, perform_setPhaseBody, perform_setFreqOutBody,
    perform_setPhaseOutBody, perform_powerBody, perform_cons, perform_nil, applyMicro, Config.pos, scale_zero, split_zero,
    phaseWord_zero, emitted_cmd, emitted_cfg, emitFrame_cfg, emitFrame_cmd, selEnable_cfg, selEnable_cmd, writeFreq_cfg,
    writePhase_cmd, writePhase_cfg, Bool.not_false, setBit_zero_eq_bootWord, setBit_bootWord_b28, hf, hp,
    setBit_bootWord_sleeps]
  simp [booted, initWords, emitted, emitFrame, selEnable, writeFreq, writePhase, Config.freqTag, Config.phaseTag]

/-- Settles O18: in a legal layout neither select bit stands at B28 or SLEEP12. -/
theorem initBootsFromAnyState : Obligations.InitBootsFromAnyState := by
  refine ⟨fun s hw => ⟨?_, fun h28 h1 h12 => ?_⟩, fun _ _ => rfl⟩
  · have apart : ∀ f, f ≠ .b28 → f ≠ .sleep12 → (bootWord s.cfg).getLsbD (s.cfg.pos f).val = false :=
      fun f h28 h12 => (getLsbD_bootWord s.cfg _).trans (decide_eq_false (not_or.mpr ⟨hw.pos_ne h28, hw.pos_ne h12⟩))
    exact exec_init (apart .fsel nofun nofun) (apart .psel nofun nofun)
  · rw [h28, h1, h12]
    decide

/-- Settles O19: the words of the general table, at the default positions and tags. -/
theorem initTraceWithDefaultLayout : Obligations.InitTraceWithDefaultLayout := by
  intro s t h28 hreset h1 h12 _ _ _ hfsel hpsel hf0 hf1 hp0 hp1 ht
  have hboot : bootWord s.cfg = 0x2040#16 := by rw [bootWord, h28, h12]; decide
  have hoff : offWord s.cfg = 0x20C0#16 := by rw [offWord, hboot, h1]; decide
  have hresetWord : resetWord s.cfg = 0x0140#16 := by rw [resetWord, hreset, h12]; decide
  have hinit : exec .init s = .next (booted s) :=
    exec_init (by rw [hboot, hfsel]; decide) (by rw [hboot, hpsel]; decide)
  obtain rfl := Host.Outcome.next.inj (hinit.symm.trans ht)
  refine ⟨hoff, ?_⟩
  simp only [booted, initWords, hboot, hoff, hresetWord, hf0, hf1, hp0, hp1]

end Sys2Proof.Machine
end

section
/-! SET_MODE (42_mode.md R78 to R81): the lines of each mode code, what they do to the mirror, and the requests made of them. -/

namespace Sys2Proof.Machine

/-! ### The lines of each mode -/

theorem modeBits_square (s : State) :
    modeBits modeSquare s = [.setBit .opbiten true, .setBit .div2 true, .setBit .mode false] := rfl

theorem modeBits_triangle (s : State) : modeBits modeTriangle s = [.setBit .mode true, .setBit .opbiten false] := rfl

theorem modeBits_sine (s : State) : modeBits modeSine s = [.setBit .opbiten false, .setBit .mode false] := rfl

theorem modeBits_off (s : State) :
    modeBits modeOff s = [.setBit .sleep1 true, .setBit .sleep12 true] ++ offDraws s := rfl

/-- The codes without a pattern have no lines (R81). -/
theorem modeBits_unrecognized {m : BitVec 8} (h : 4 ≤ m.toNat) (s : State) : modeBits m s = [] := by
  have ne : ∀ k : BitVec 8, k.toNat < 4 → m ≠ k := by
    rintro k hk rfl
    omega
  rw [modeBits, if_neg (ne _ (by decide)), if_neg (ne _ (by decide)), if_neg (ne _ (by decide)), if_neg (ne _ (by decide))]

theorem offDraws_unchanged {s : State} (h : s.cfg.offPolicy = .unchanged) : offDraws s = [] := by
  rw [offDraws, h]

theorem offDraws_draw {s : State} (h : s.cfg.offPolicy = .draw) :
    offDraws s =
      [.setBit .mode (Config.draw s.draws), .setBit .opbiten (Config.draw (s.draws + 1)),
        .setBit .div2 (Config.draw (s.draws + 2)), .countDraws 3] := by
  rw [offDraws, h]

/-! ### The request -/

/-- After INIT, SET_MODE performs the lines of its mode, caches the code, frames the mirror and answers OK (R78). -/
theorem exec_setMode {s : State} {d : Data} {m : BitVec 8} (hs : s.init = true) (hm : modeCode d = m) :
    exec (.setMode d) s =
      .next (answered .ok 0#64 (emitted [(perform (modeBits m s) s).cmd] { perform (modeBits m s) s with mode := m })) := by
  subst hm
  have hc : checkOf (.setMode d) s = none := checkRequest_not_indexed (by decide) (by decide) rfl hs _ d
  rw [exec_of_checkOf_none hc, passBody, perform_append]
  rfl

/-- Before INIT, SET_MODE is turned away (R105). -/
theorem exec_setMode_before_init {s : State} (hs : s.init = false) (d : Data) :
    exec (.setMode d) s = .next (answered .notInit 0#64 s) :=
  exec_of_checkOf_some (checkRequest_before_init (by decide) (by decide) hs _ d)

/-- The mirror after a mode code other than OFF (R78). -/
def modeWord (m : BitVec 8) (c : Config) (w : Word) : Word :=
  if m = modeSquare then setBit (setBit (setBit w c.posOpbiten.val true) c.posDiv2.val true) c.posMode.val false
  else if m = modeTriangle then setBit (setBit w c.posMode.val true) c.posOpbiten.val false
  else if m = modeSine then setBit (setBit w c.posOpbiten.val false) c.posMode.val false
  else w

/-- The lines of a mode code other than OFF write the mirror and nothing else. -/
theorem perform_modeBits {m : BitVec 8} (hm : m ≠ modeOff) (s : State) :
    perform (modeBits m s) s = { s with cmd := modeWord m s.cfg s.cmd } := by
  rw [modeBits, modeWord, if_neg hm]
  split_ifs <;> rfl

/-- Settles O21: of the codes other than OFF, three write their bits. -/
theorem setModeWritesItsPattern : Obligations.SetModeWritesItsPattern := by
  refine ⟨fun s d hs hm => ?_, fun s d hs => exec_setMode_before_init hs d, fun _ _ => rfl⟩
  have hoff : modeCode d ≠ modeOff := hm
  rw [exec_setMode hs rfl, perform_modeBits hoff]
  rfl

/-- Settles O22: OFF sets both sleep bits; the policy says whether draws follow. -/
theorem setModeOffUnderBothPolicies : Obligations.SetModeOffUnderBothPolicies := by
  refine ⟨fun s d hs hm => ?_, fun _ _ => rfl⟩
  have hoff : modeCode d = modeOff := hm
  rw [exec_setMode hs hoff, modeBits_off]
  refine ⟨fun hp => ?unchanged, fun hp => ?draw⟩
  case unchanged =>
    rw [offDraws_unchanged hp]
    rfl
  case draw =>
    rw [offDraws_draw hp]
    exact ⟨Config.draw s.draws, Config.draw (s.draws + 1), Config.draw (s.draws + 2), rfl⟩

/-! ### The mirror, field by field -/

/-- Every instruction but INIT keeps each field its lines do not set. -/
theorem exec_keeps_field {i : Instr} {s t : State} {f : CmdField} (hi : i ≠ .init) (hw : s.cfg.Wf) (ht : exec i s = .next t)
    (hf : f ∉ mirrorFields i) : t.field f = s.field f := by
  have hcfg : t.cfg = s.cfg := by rw [exec_next ht, perform_cfg]
  rw [State.field, hcfg]
  refine exec_keeps_bit hi ht fun g hg hj => hf ?_
  rwa [hw.pos_inj (Fin.ext hj)]

/-- A field of the mirror after one of several lines that set bits: the parameters are those they began with. -/
theorem field_setBit_of_cfg_eq {s u : State} (hw : s.cfg.Wf) (hu : u.cfg = s.cfg) (f : CmdField) (b : Bool) (g : CmdField) :
    (applyMicro (.setBit f b) u).field g = if g = f then b else u.field g :=
  field_setBit (hu ▸ hw) f b g

@[simp] theorem field_countDraws (n : Nat) (s : State) (f : CmdField) :
    (applyMicro (.countDraws n) s).field f = s.field f := rfl

/-- Caching the code, the frame and the answer leave the mirror as the lines of the mode made it. -/
theorem field_exec_setMode {s t : State} {d : Data} {m : BitVec 8} (hs : s.init = true) (hm : modeCode d = m)
    (ht : exec (.setMode d) s = .next t) (f : CmdField) : t.field f = (perform (modeBits m s) s).field f := by
  obtain rfl := Host.Outcome.next.inj ((exec_setMode hs hm).symm.trans ht)
  rfl

/-- Settles O23: each mode's lines, applied to a mirror whose fields stand apart. -/
theorem modeTableFieldByField : Obligations.ModeTableFieldByField := by
  intro s t d hw hs ht
  have lines : ∀ m, modeCode d = m → ∀ f, t.field f = (perform (modeBits m s) s).field f :=
    fun m hm => field_exec_setMode hs hm ht
  refine ⟨fun hm => ?square, fun hm => ?triangle, fun hm => ?sine, fun hm => ?off, fun hm f => ?unrecognized,
    ?others⟩
  case square => simp [lines modeSquare hm, modeBits_square, field_setBit_of_cfg_eq hw]
  case triangle => simp [lines modeTriangle hm, modeBits_triangle, field_setBit_of_cfg_eq hw]
  case sine => simp [lines modeSine hm, modeBits_sine, field_setBit_of_cfg_eq hw]
  case off =>
    cases hp : s.cfg.offPolicy with
    | unchanged => simp [lines modeOff hm, modeBits_off, offDraws_unchanged hp, field_setBit_of_cfg_eq hw]
    | draw => simp [lines modeOff hm, modeBits_off, offDraws_draw hp, field_setBit_of_cfg_eq hw]
  case unrecognized =>
    have hbits : modeBits (modeCode d) s = [] := modeBits_unrecognized hm s
    exact (lines _ rfl f).trans (by rw [hbits, perform_nil])
  case others =>
    have kept : ∀ f, f ∉ mirrorFields (.setMode d) → t.field f = s.field f := fun f => exec_keeps_field nofun hw ht
    refine ⟨kept _ ?_, kept _ ?_, kept _ ?_, kept _ ?_⟩ <;> simp [mirrorFields]

end Sys2Proof.Machine
end

section
/-! The splitter (43_frequency.md R86, R91): its two words are the wire words of R55, so each is its tag's top bits with
14 bits of the tuning word below them. -/

namespace Sys2Proof

/-! ### A frequency word in two parts -/

/-- The data field of a word with a frequency tag is its data (R55). -/
theorem extractLsb'_freqWord {c : Config} (h : c.Wf) (i : Bank) (x : BitVec 14) :
    (freqWord c i x).extractLsb' 0 14 = x :=
  extractLsb'_tag_or_data (by decide) (h.freqTag_data i) x

/-- A word with a frequency tag is the tag's top bits, then its data. -/
theorem freqWord_eq_append {c : Config} (h : c.Wf) (i : Bank) (x : BitVec 14) :
    freqWord c i x = (c.freqTag i).extractLsb' 14 2 ++ x :=
  calc freqWord c i x
    _ = (freqWord c i x).extractLsb' 14 2 ++ (freqWord c i x).extractLsb' 0 14 := by
      rw [BitVec.extractLsb'_append_extractLsb'_eq_extractLsb' (by decide)]
      exact BitVec.extractLsb'_eq_self.symm
    _ = (c.freqTag i).extractLsb' 14 2 ++ x :=
      congrArg₂ _ (extractLsb'_tag_or_above 2 _ x (Nat.le_refl 14)) (extractLsb'_freqWord h i x)

theorem freqWord_inj {c : Config} (h : c.Wf) (i : Bank) {x y : BitVec 14} : freqWord c i x = freqWord c i y ↔ x = y :=
  ⟨fun e => by simpa only [extractLsb'_freqWord h] using congrArg (BitVec.extractLsb' 0 14) e, congrArg _⟩

theorem freqHighWord_inj {c : Config} (h : c.Wf) (i : Bank) {x y : BitVec 12} :
    freqHighWord c i x = freqHighWord c i y ↔ x = y := by
  have hdata : ∀ z : BitVec 12, (freqHighWord c i z).extractLsb' 0 12 = z := fun z => by
    rw [freqHighWord_eq, extractLsb'_tag_or_data (by decide) (h.freqTag_data12 i)]
  exact ⟨fun e => by simpa only [hdata] using congrArg (BitVec.extractLsb' 0 12) e, congrArg _⟩

/-- Twelve bits in a 14-bit data field stand below `0b00`. -/
theorem zeroExtend_eq_zero_append (x : BitVec 12) : x.zeroExtend 14 = 0b00#2 ++ x :=
  BitVec.setWidth_eq_append (by decide)

/-- A FREQ_HI word is the tag's top bits, `0b00`, then its data. -/
theorem freqHighWord_eq_append {c : Config} (h : c.Wf) (i : Bank) (x : BitVec 12) :
    freqHighWord c i x = (c.freqTag i).extractLsb' 14 2 ++ (0b00#2 ++ x) := by
  rw [freqHighWord, freqWord_eq_append h, zeroExtend_eq_zero_append]

end Sys2Proof

namespace Sys2Proof.Machine

/-! ### The two words of a tuning word -/

/-- R86's shift and mask read 14 bits of the tuning word. -/
theorem shiftRight_and_mask (tw : Tuning) (k : Nat) :
    (((tw.zeroExtend 32) >>> k) &&& 0x3FFF#32).setWidth 16 = (tw.extractLsb' k 14).zeroExtend 16 := by
  have htw : tw.toNat % 2 ^ 32 = tw.toNat := Nat.mod_eq_of_lt (by omega)
  apply BitVec.eq_of_toNat_eq
  simp only [BitVec.truncate_eq_setWidth, BitVec.toNat_setWidth, BitVec.toNat_and, BitVec.toNat_ushiftRight, htw,
    BitVec.extractLsb'_toNat]
  exact congrArg (· % 2 ^ 16) (Nat.and_two_pow_sub_one_eq_mod _ 14)

/-- Above bit 15 a tuning word has 12 bits. -/
theorem extractLsb'_top (tw : Tuning) : tw.extractLsb' 16 14 = 0b00#2 ++ tw.extractLsb' 16 12 := by
  rw [← zeroExtend_eq_zero_append]
  apply BitVec.eq_of_getLsbD_eq
  intro j hj
  by_cases hj12 : j < 12
  · simp [hj, hj12]
  · simp [hj12, BitVec.getLsbD_of_ge tw (16 + j) (by omega)]

/-- R86's words are R55's: FREQ_LO with `TW[15:2]` and FREQ_HI with `TW[27:16]`. -/
theorem split_eq_freqWords (c : Config) (i : Bank) (tw : Tuning) :
    split c i tw = (freqWord c i (tw.extractLsb' 2 14), freqHighWord c i (tw.extractLsb' 16 12)) := by
  rw [split, shiftRight_and_mask, shiftRight_and_mask, extractLsb'_top, ← zeroExtend_eq_zero_append]
  rfl

/-- The data of the high word, then that of the low word, are `TW[27:2]`. -/
theorem extractLsb'_append_eq_kept (tw : Tuning) : tw.extractLsb' 16 12 ++ tw.extractLsb' 2 14 = tw.extractLsb' 2 26 :=
  BitVec.extractLsb'_append_extractLsb'_eq_extractLsb' (by decide)

/-- Settles O27: each word is its tag's top bits, then its data. -/
theorem splitPlacesTuningBits : Obligations.SplitPlacesTuningBits := by
  intro c i tw hw
  rw [split_eq_freqWords]
  exact ⟨freqWord_eq_append hw i _, freqHighWord_eq_append hw i _⟩

/-- Settles O28: the words agree when their data do, and the two data fields side by side are `TW[27:2]`. -/
theorem splitCarriesAllButTwoBits : Obligations.SplitCarriesAllButTwoBits := by
  intro c i a b hw
  have hwords : split c i a = split c i b ↔
      a.extractLsb' 2 14 = b.extractLsb' 2 14 ∧ a.extractLsb' 16 12 = b.extractLsb' 16 12 := by
    rw [split_eq_freqWords, split_eq_freqWords, Prod.mk.injEq, freqWord_inj hw, freqHighWord_inj hw]
  rw [hwords, ← extractLsb'_append_eq_kept, ← extractLsb'_append_eq_kept]
  refine ⟨fun ⟨hlo, hhi⟩ => by rw [hlo, hhi], fun h => ⟨?_, ?_⟩⟩
  · simpa only [BitVec.extractLsb'_append_eq_right] using congrArg (BitVec.extractLsb' 0 14) h
  · simpa only [BitVec.extractLsb'_append_eq_left] using congrArg (BitVec.extractLsb' 14 12) h

/-- The two data fields side by side hold a quarter of the tuning word (R91). -/
theorem toNat_naturalAssembly {c : Config} (hw : c.Wf) (i : Bank) (tw : Tuning) :
    ((split c i tw).2.extractLsb' 0 14 ++ (split c i tw).1.extractLsb' 0 14).toNat = tw.toNat / 4 := by
  have hlo : (tw.extractLsb' 2 14).toNat = tw.toNat / 4 % 2 ^ 14 := by
    rw [BitVec.extractLsb'_toNat, Nat.shiftRight_eq_div_pow]
  have hhi : (tw.extractLsb' 16 14).toNat = tw.toNat / 2 ^ 16 := by
    rw [BitVec.extractLsb'_toNat, Nat.shiftRight_eq_div_pow]
    omega
  rw [split_eq_freqWords, freqHighWord, extractLsb'_freqWord hw, extractLsb'_freqWord hw, zeroExtend_eq_zero_append,
    ← extractLsb'_top, BitVec.toNat_append, ← Nat.shiftLeft_add_eq_or_of_lt (BitVec.isLt _), Nat.shiftLeft_eq, hlo, hhi]
  omega

/-- Settles O29: only 0 is a quarter of itself. -/
theorem naturalAssemblyIsTuningOnlyAtZero : Obligations.NaturalAssemblyIsTuningOnlyAtZero := by
  intro c i tw hw
  rw [← BitVec.toNat_inj, toNat_naturalAssembly hw, ← BitVec.toNat_inj, BitVec.toNat_zero]
  omega

end Sys2Proof.Machine
end

section
/-! The scaler (43_frequency.md R83 to R85): the machine's integers are R83's rational formula, and so the word depends on
`x = value(f) * 2^28 / F_MCLK` alone. -/

namespace Sys2Proof.Machine

/-! ### Rounding (R13) -/

/-- Zero included: `floor(1/2) = 0`. -/
theorem roundHalfAway_of_nonneg {x : ℚ} (h : 0 ≤ x) : roundHalfAway x = ⌊x + 1 / 2⌋ := by
  rcases h.eq_or_lt with rfl | hx
  · norm_num [roundHalfAway]
  · rw [roundHalfAway, if_neg h.not_gt, if_neg hx.ne', abs_of_pos hx, one_mul]

theorem roundHalfAway_neg (x : ℚ) : roundHalfAway (-x) = -roundHalfAway x := by
  rcases lt_trichotomy x 0 with hx | rfl | hx
  · simp [roundHalfAway, hx, hx.not_gt, hx.ne]
  · simp [roundHalfAway]
  · simp [roundHalfAway, hx, hx.not_gt, hx.ne']

theorem roundHalfAway_natCast (n : Nat) : roundHalfAway n = n := by
  rw [roundHalfAway_of_nonneg n.cast_nonneg, add_comm, Int.floor_add_natCast]
  norm_num

/-- A tie goes away from zero (R84). -/
theorem roundHalfAway_tie (n : Nat) : roundHalfAway (n + 1 / 2) = n + 1 := by
  have hsum : (n : ℚ) + 1 / 2 + 1 / 2 = (n + 1 : ℕ) := by push_cast; ring
  rw [roundHalfAway_of_nonneg (by positivity), hsum, Int.floor_natCast]
  push_cast
  rfl

theorem roundHalfAway_add_natCast {x : ℚ} (h : 0 ≤ x) (n : Nat) : roundHalfAway (x + n) = roundHalfAway x + n := by
  rw [roundHalfAway_of_nonneg h, roundHalfAway_of_nonneg (by positivity), add_right_comm, Int.floor_add_natCast]

/-- The integer rounding of a fraction is the rational one. -/
theorem roundHalfAway_div (n : Nat) {d : Nat} (hd : 0 < d) : roundHalfAway (n / d) = roundHalfUp n d := by
  have hd' : (d : ℚ) ≠ 0 := by positivity
  have hsum : (n : ℚ) / d + 1 / 2 = (2 * n + d : ℕ) / (2 * d : ℕ) := by
    push_cast
    field_simp
  rw [roundHalfAway_of_nonneg (by positivity), hsum, Rat.floor_natCast_div_natCast]
  rfl

/-! ### The integer form -/

/-- `-1` for a pattern with the sign bit, else `1` (R13). -/
def signOf (f : Data) : ℤ :=
  if f.getLsbD 63 then -1 else 1

theorem roundHalfAway_signOf_mul (f : Data) (x : ℚ) : roundHalfAway (signOf f * x) = signOf f * roundHalfAway x := by
  rw [signOf]
  split_ifs <;> simp [roundHalfAway_neg]

/-- The significand's unit is `2^-52` of the leading bit's. -/
theorem two_zpow_unit (e : Nat) : (2 : ℚ) ^ ((e : ℤ) - 1023) = 2 ^ 52 * 2 ^ ((e : ℤ) - (1075 : ℕ)) := by
  rw [← zpow_natCast 2 52, ← zpow_add₀ two_ne_zero]
  congr 1
  omega

/-- The integers the scaler computes with carry the pattern's value, normal or subnormal. -/
theorem value_eq_significand (f : Data) :
    value f = signOf f * (significand f * (2 : ℚ) ^ ((scaleExp f : ℤ) - (1075 : ℕ))) := by
  have hsign : (if f.getLsbD 63 then -1 else 1 : ℚ) = signOf f := by
    rw [signOf]
    split_ifs <;> simp
  rw [value, hsign]
  congr 1
  by_cases he : expField f = 0
  · have hunit := two_zpow_unit 1
    rw [if_pos he, significand, if_pos he, scaleExp, if_pos he, show (-1022 : ℤ) = (1 : ℕ) - 1023 by rfl, hunit]
    ring
  · rw [if_neg he, significand, if_neg he, scaleExp, if_neg he, two_zpow_unit]
    push_cast
    ring

/-- A power of two with a difference as exponent, by the two truncated differences of `scaleMag`. -/
theorem two_zpow_sub (a b : Nat) : (2 : ℚ) ^ ((a : ℤ) - b) = 2 ^ (a - b) / 2 ^ (b - a) := by
  rw [zpow_sub₀ two_ne_zero, zpow_natCast, zpow_natCast, div_eq_div_iff (by positivity) (by positivity), ← pow_add,
    ← pow_add]
  congr 1
  omega

/-- R83's `x`: the tuning word before it is rounded. -/
def tuningRatio (c : Config) (f : Data) : ℚ :=
  value f * 2 ^ 28 / fMclk c

/-- `scaleMag` is `x` rounded, sign aside. -/
theorem roundHalfAway_tuningRatio {c : Config} (hw : c.Wf) (f : Data) :
    roundHalfAway (tuningRatio c f) = signOf f * scaleMag c f := by
  have hden : 0 < 2 ^ (1075 - scaleExp f) * c.fMclkNum := Nat.mul_pos (Nat.two_pow_pos _) hw.fMclkNum_pos
  rw [scaleMag, ← roundHalfAway_div _ hden, ← roundHalfAway_signOf_mul, tuningRatio, value_eq_significand, two_zpow_sub,
    fMclk, div_div_eq_mul_div]
  congr 1
  push_cast
  ring

/-- The scaler is R83's formula; it does not ask for a finite pattern. -/
theorem scale_eq_roundHalfAway {c : Config} (hw : c.Wf) (f : Data) :
    scale c f = BitVec.ofInt 28 (roundHalfAway (tuningRatio c f)) := by
  rw [roundHalfAway_tuningRatio hw, signOf, ite_mul, neg_one_mul, one_mul, scale]

/-- Settles O24: sign and magnitude are rounded apart. -/
theorem scaleIsExactRounding : Obligations.ScaleIsExactRounding := fun _ f hw _ => scale_eq_roundHalfAway hw f

/-! ### The word by the ratio -/

theorem fMclk_pos {c : Config} (hw : c.Wf) : 0 < fMclk c :=
  div_pos (Nat.cast_pos.mpr hw.fMclkNum_pos) (Nat.cast_pos.mpr hw.fMclkDen_pos)

theorem tuningRatio_eq_iff {c : Config} (hw : c.Wf) {f : Data} {x : ℚ} :
    tuningRatio c f = x ↔ value f = x * fMclk c / 2 ^ 28 := by
  rw [tuningRatio, div_eq_iff (fMclk_pos hw).ne', eq_div_iff (by positivity)]

theorem tuningRatio_nonneg {c : Config} (hw : c.Wf) {f : Data} (h : 0 ≤ value f) : 0 ≤ tuningRatio c f :=
  div_nonneg (by positivity) (fMclk_pos hw).le

/-- A whole `x` is not rounded, only reduced. -/
theorem scale_of_value_eq {c : Config} (hw : c.Wf) {f : Data} (n : Nat) (h : value f = n * fMclk c / 2 ^ 28) :
    scale c f = BitVec.ofInt 28 n := by
  rw [scale_eq_roundHalfAway hw, (tuningRatio_eq_iff hw).mpr h, roundHalfAway_natCast]

/-- From 0 to `F_MCLK / 2` rounding keeps `0 ≤ x ≤ 2^27`, so nothing is reduced. -/
theorem toNat_scale_le {c : Config} (hw : c.Wf) {f : Data} (h0 : 0 ≤ value f) (h : value f ≤ fMclk c / 2) :
    (scale c f).toNat ≤ 2 ^ 27 := by
  have hle : tuningRatio c f ≤ 2 ^ 27 := by
    rw [tuningRatio, div_le_iff₀ (fMclk_pos hw)]
    linarith
  have hlo : 0 ≤ ⌊tuningRatio c f + 1 / 2⌋ := Int.floor_nonneg.mpr (add_nonneg (tuningRatio_nonneg hw h0) (by norm_num))
  have hhi : ⌊tuningRatio c f + 1 / 2⌋ < 2 ^ 27 + 1 := Int.floor_lt.mpr (by push_cast; linarith)
  rw [scale_eq_roundHalfAway hw, roundHalfAway_of_nonneg (tuningRatio_nonneg hw h0), BitVec.toNat_ofInt]
  omega

/-- Settles O25: at the boundary values `x` is 0, 1, `2^28` and `2^27`. -/
theorem scaleBoundaryValues : Obligations.ScaleBoundaryValues := by
  intro c f hw _
  refine ⟨fun h => scale_of_value_eq hw 0 ?_, fun h => scale_of_value_eq hw 1 ?_,
    fun h => (scale_of_value_eq hw (2 ^ 28) ?_).trans (by decide),
    fun h => (scale_of_value_eq hw (2 ^ 27) ?_).trans (by decide), toNat_scale_le hw⟩ <;> rw [h] <;> push_cast <;> ring

/-- `k` times `F_MCLK` more is `k * 2^28` more in `x`. -/
theorem tuningRatio_add {c : Config} (hw : c.Wf) {f g : Data} {k : Nat} (h : value g = value f + k * fMclk c) :
    tuningRatio c g = tuningRatio c f + (k * 2 ^ 28 : ℕ) := by
  rw [tuningRatio_eq_iff hw, add_mul, add_div, ← (tuningRatio_eq_iff hw).mp rfl, h]
  push_cast
  ring

/-- Reducing modulo `2^28` forgets its multiples. -/
theorem ofInt_add_mul_two_pow (z : ℤ) (k : Nat) : BitVec.ofInt 28 (z + (k * 2 ^ 28 : ℕ)) = BitVec.ofInt 28 z := by
  apply BitVec.eq_of_toNat_eq
  rw [BitVec.toNat_ofInt, BitVec.toNat_ofInt]
  omega

/-- Settles O26: the word is a function of `x`; multiples of `F_MCLK` are reduced, and ties rounded away from zero. -/
theorem scaleArithmeticLaws : Obligations.ScaleArithmeticLaws := by
  intro c f g hw _ _
  simp only [scale_eq_roundHalfAway hw]
  refine ⟨fun h => ?equal, fun k hf h => ?period, fun n h => ?tie, fun n h => ?negativeTie⟩
  case equal => rw [tuningRatio, tuningRatio, h]
  case period =>
    rw [tuningRatio_add hw h, roundHalfAway_add_natCast (tuningRatio_nonneg hw hf), ofInt_add_mul_two_pow]
  case tie => rw [tuningRatio, h, roundHalfAway_tie]
  case negativeTie => rw [tuningRatio, h, roundHalfAway_neg, roundHalfAway_tie]

end Sys2Proof.Machine
end

section
/-! SET_FREQ and GET_FREQ (43_frequency.md R87, R90). -/

namespace Sys2Proof.Machine

/-- Once initialised, SET_FREQ is turned away for its index, then for its pattern (R104). -/
theorem checkRequest_setFreq {s : State} (hs : s.init = true) (i : BitVec 2) (d : Data) :
    checkRequest 0x4#4 i d s =
      if 1#2 < i then some .badIndex else if isFinite d = false then some .badValue else none := by
  simp [checkRequest, hs, indexed]

theorem not_one_lt_index {i : BitVec 2} (hi : i = 0#2 ∨ i = 1#2) : ¬ 1#2 < i := by
  rcases hi with rfl | rfl <;> decide

/-- An accepted SET_FREQ performs its body and answers OK (R87). -/
theorem exec_setFreq {s : State} {i : BitVec 2} {d : Data} (hs : s.init = true) (hi : i = 0#2 ∨ i = 1#2)
    (hd : isFinite d = true) :
    exec (.setFreq i d) s = .next (answered .ok 0#64 (perform (setFreqBody s.cfg (bankOf i) d) s)) := by
  have hc : checkOf (.setFreq i d) s = none := (checkRequest_setFreq hs i d).trans (by simp [not_one_lt_index hi, hd])
  rw [exec_of_checkOf_none hc, passBody, perform_append]
  rfl

/-- GET_FREQ of a legal index answers the cache (R97). -/
theorem exec_getFreq {s : State} {i : BitVec 2} (hs : s.init = true) (hi : i = 0#2 ∨ i = 1#2) :
    exec (.getFreq i) s = .next (answered .ok (s.freq (bankOf i)) s) := by
  have hc : checkOf (.getFreq i) s = none := by simp [checkOf, checkRequest, hs, not_one_lt_index hi]
  rw [exec_of_checkOf_none hc]
  rfl

/-- Settles O30: the check's answers in its order; past it, the body's state for either register. -/
theorem setFreqEmitsThreeFrames : Obligations.SetFreqEmitsThreeFrames := by
  refine ⟨fun s i d hs hi hd => ?accepted, fun s i d hs => ?notInit, fun s i d hs hi => ?badIndex,
    fun s i d hs hi hd => ?badValue, fun _ _ => rfl⟩
  case accepted =>
    rw [exec_setFreq hs hi hd, perform_setFreqBody]
    rcases hi with rfl | rfl <;> rfl
  case notInit => exact exec_of_checkOf_some (checkRequest_before_init (by decide) (by decide) hs i d)
  case badIndex =>
    have hlt : 1#2 < i := hi
    exact exec_of_checkOf_some ((checkRequest_setFreq hs i d).trans (if_pos hlt))
  case badValue =>
    have hge : ¬ 1#2 < i := Nat.not_lt.mpr hi
    exact exec_of_checkOf_some ((checkRequest_setFreq hs i d).trans ((if_neg hge).trans (if_pos hd)))

/-- The cache holds what SET_FREQ's first line wrote (R21). -/
theorem freq_perform_setFreqBody (c : Config) (b : Bank) (f : Data) (s : State) :
    (perform (setFreqBody c b f) s).freq b = f := by
  rw [perform_setFreqBody]
  cases b <;> rfl

theorem init_perform_setFreqBody (c : Config) (b : Bank) (f : Data) (s : State) :
    (perform (setFreqBody c b f) s).init = s.init := by
  rw [perform_setFreqBody]
  cases b <;> rfl

/-- Settles O31: SET_FREQ leaves the block initialised and its operand in the cache. -/
theorem frequencyReadsBackVerbatim : Obligations.FrequencyReadsBackVerbatim := by
  intro s t i d hs hi hd ht
  obtain rfl := Host.Outcome.next.inj ((exec_setFreq hs hi hd).symm.trans ht)
  let u := perform (setFreqBody s.cfg (bankOf i) d) s
  have hinit : (answered .ok 0#64 u).init = true := (init_perform_setFreqBody s.cfg (bankOf i) d s).trans hs
  have hfreq : (answered .ok 0#64 u).freq (bankOf i) = d := freq_perform_setFreqBody s.cfg (bankOf i) d s
  rw [exec_getFreq hinit hi, hfreq]

end Sys2Proof.Machine
end

section
/-! SET_PHASE and GET_PHASE (44_phase.md R92, R93; 46_accessors.md R98). -/

namespace Sys2Proof.Machine

/-- Once initialised, an indexed request without a frequency is turned away for its index only (R104). -/
theorem checkRequest_indexed {op : BitVec 4} {s : State} (hx : indexed op = true) (hop : op ≠ 0x4#4) (hs : s.init = true)
    (i : BitVec 2) (d : Data) : checkRequest op i d s = if 1#2 < i then some .badIndex else none := by
  have hres : ¬ (op = 0x0#4 ∨ 0xD#4 ≤ op) := by
    revert op
    decide
  simp [checkRequest, hres, hx, hop, hs]

/-- An accepted SET_PHASE performs its body and answers OK (R92). -/
theorem exec_setPhase {s : State} {i : BitVec 2} (hs : s.init = true) (hi : i = 0#2 ∨ i = 1#2) (d : Data) :
    exec (.setPhase i d) s = .next (answered .ok 0#64 (perform (setPhaseBody s.cfg (bankOf i) (phaseOperand d)) s)) := by
  have hc : checkOf (.setPhase i d) s = none :=
    (checkRequest_indexed rfl (by decide) hs i d).trans (if_neg (not_one_lt_index hi))
  rw [exec_of_checkOf_none hc, passBody, perform_append]
  rfl

/-- GET_PHASE of a legal index answers the cache (R98). -/
theorem exec_getPhase {s : State} {i : BitVec 2} (hs : s.init = true) (hi : i = 0#2 ∨ i = 1#2) :
    exec (.getPhase i) s = .next (answered .ok ((s.phase (bankOf i)).zeroExtend 64) s) := by
  have hc : checkOf (.getPhase i) s = none :=
    (checkRequest_indexed rfl (by decide) hs i _).trans (if_neg (not_one_lt_index hi))
  rw [exec_of_checkOf_none hc]
  rfl

/-- Settles O32: the check's answers in its order; past it, the body's state for either register. -/
theorem setPhaseCachesAndSends : Obligations.SetPhaseCachesAndSends := by
  refine ⟨fun s i d hs hi => ?accepted, fun s i d hs => ?notInit, fun s i d hs hi => ?badIndex, fun _ _ => rfl⟩
  case accepted =>
    rw [exec_setPhase hs hi, perform_setPhaseBody]
    rcases hi with rfl | rfl <;> rfl
  case notInit => exact exec_of_checkOf_some (checkRequest_before_init (by decide) (by decide) hs i d)
  case badIndex =>
    have hlt : 1#2 < i := hi
    exact exec_of_checkOf_some ((checkRequest_indexed rfl (by decide) hs i d).trans (if_pos hlt))

/-- The cache holds what SET_PHASE's first line wrote (R22). -/
theorem phase_perform_setPhaseBody (c : Config) (b : Bank) (p : PhaseVal) (s : State) :
    (perform (setPhaseBody c b p) s).phase b = p := by
  cases b <;> rfl

/-- The cached operand, as a response carries it, is the caller's modulo `2^12` (R93). -/
theorem zeroExtend_phaseOperand (d : Data) : (phaseOperand d).zeroExtend 64 = BitVec.ofNat 64 (d.toNat % 4096) := by
  apply BitVec.eq_of_toNat_eq
  simp only [phaseOperand, BitVec.truncate_eq_setWidth, BitVec.toNat_setWidth, BitVec.extractLsb'_toNat,
    Nat.shiftRight_zero, BitVec.toNat_ofNat]

/-- Settles O33: SET_PHASE leaves the block initialised and its truncated operand in the cache. -/
theorem phaseReadsBackTruncated : Obligations.PhaseReadsBackTruncated := by
  intro s t i d hs hi ht
  have ht : t = answered .ok 0#64 (perform (setPhaseBody s.cfg (bankOf i) (phaseOperand d)) s) :=
    Host.Outcome.next.inj (ht.symm.trans (exec_setPhase hs hi d))
  have hinit : t.init = true := by rw [ht, answered_init, perform_setPhaseBody, emitted_init, writePhase_init, hs]
  have hphase : t.phase (bankOf i) = phaseOperand d := by
    rw [ht]
    exact phase_perform_setPhaseBody s.cfg (bankOf i) (phaseOperand d) s
  rw [exec_getPhase hinit hi, hphase, zeroExtend_phaseOperand]

end Sys2Proof.Machine
end

section
/-! SET_FREQ_OUT and SET_PHASE_OUT (45_output_select.md R94 to R96), and the operands that every indexed operation turns away
(R88, R96, R103). -/

namespace Sys2Proof.Machine

/-! ### Operands turned away -/

/-- Once initialised, an index above 1 is the first cause of every indexed operation, SET_FREQ included (R104). -/
theorem checkRequest_badIndex {op : BitVec 4} {s : State} {i : BitVec 2} (hx : indexed op = true) (hs : s.init = true)
    (hi : 1#2 < i) (d : Data) : checkRequest op i d s = some .badIndex := by
  by_cases hop : op = 0x4#4
  · rw [hop, checkRequest_setFreq hs, if_pos hi]
  · rw [checkRequest_indexed hx hop hs, if_pos hi]

theorem one_lt_index {i : BitVec 2} (hi : i = 2#2 ∨ i = 3#2) : 1#2 < i := by
  rcases hi with rfl | rfl <;> decide

/-- An all-ones exponent field is an infinity or a NaN (R13). -/
theorem isFinite_eq_false {d : Data} (h : d.extractLsb' 52 11 = 0x7FF#11) : isFinite d = false := by
  rw [isFinite, h]
  rfl

/-- Settles O14: an index above 1 is looked at before the pattern; the pattern, with a legal index. -/
theorem badOperandsAreRejected : Obligations.BadOperandsAreRejected := by
  refine ⟨fun i d s hs hi => ?badIndex, fun i d s hs hi hd => ?badValue⟩
  case badIndex =>
    have hc : ∀ op, indexed op = true → ∀ d, checkRequest op i d s = some .badIndex :=
      fun _ hx => checkRequest_badIndex hx hs (one_lt_index hi)
    exact ⟨exec_of_checkOf_some (hc 0x4#4 rfl d), exec_of_checkOf_some (hc 0x5#4 rfl d),
      exec_of_checkOf_some (hc 0x6#4 rfl _), exec_of_checkOf_some (hc 0x7#4 rfl _),
      exec_of_checkOf_some (hc 0x8#4 rfl _), exec_of_checkOf_some (hc 0x9#4 rfl _)⟩
  case badValue =>
    have hc : checkOf (.setFreq i d) s = some .badValue :=
      (checkRequest_setFreq hs i d).trans ((if_neg (not_one_lt_index hi)).trans (if_pos (isFinite_eq_false hd)))
    exact exec_of_checkOf_some hc

/-! ### The selects -/

/-- A legal index passes the check of an indexed operation without a frequency (R104). -/
theorem checkRequest_legalIndex {op : BitVec 4} {s : State} {i : BitVec 2} (hx : indexed op = true) (hop : op ≠ 0x4#4)
    (hs : s.init = true) (hi : i = 0#2 ∨ i = 1#2) (d : Data) : checkRequest op i d s = none := by
  rw [checkRequest_indexed hx hop hs, if_neg (not_one_lt_index hi)]

/-- The select bit of a legal index (R94, R95). -/
theorem selectOf_eq_decide {i : BitVec 2} (hi : i = 0#2 ∨ i = 1#2) : selectOf i = decide (i = 1#2) := by
  rcases hi with rfl | rfl <;> rfl

/-- An accepted SET_FREQ_OUT performs its body and answers OK (R94). -/
theorem exec_setFreqOut {s : State} {i : BitVec 2} (hs : s.init = true) (hi : i = 0#2 ∨ i = 1#2) :
    exec (.setFreqOut i) s = .next (answered .ok 0#64 (perform (setFreqOutBody (selectOf i)) s)) := by
  have hc : checkOf (.setFreqOut i) s = none := checkRequest_legalIndex rfl (by decide) hs hi _
  rw [exec_of_checkOf_none hc, passBody, perform_append]
  rfl

/-- An accepted SET_PHASE_OUT performs its body and answers OK (R95). -/
theorem exec_setPhaseOut {s : State} {i : BitVec 2} (hs : s.init = true) (hi : i = 0#2 ∨ i = 1#2) :
    exec (.setPhaseOut i) s = .next (answered .ok 0#64 (perform (setPhaseOutBody (selectOf i)) s)) := by
  have hc : checkOf (.setPhaseOut i) s = none := checkRequest_legalIndex rfl (by decide) hs hi _
  rw [exec_of_checkOf_none hc, passBody, perform_append]
  rfl

/-- Settles O34: the body's state when the check passes, else the check's two answers. -/
theorem setFreqOutWritesSelect : Obligations.SetFreqOutWritesSelect := by
  refine ⟨fun s i hs hi => ?accepted, fun s i hs => ?notInit, fun s i hs hi => ?badIndex, fun _ _ => rfl⟩
  case accepted => rw [exec_setFreqOut hs hi, perform_setFreqOutBody, selectOf_eq_decide hi]
  case notInit => exact exec_of_checkOf_some (checkRequest_before_init (by decide) (by decide) hs i _)
  case badIndex => exact exec_of_checkOf_some (checkRequest_badIndex rfl hs hi _)

/-- Settles O35: as for SET_FREQ_OUT, with PSEL for FSEL. -/
theorem setPhaseOutWritesSelect : Obligations.SetPhaseOutWritesSelect := by
  refine ⟨fun s i hs hi => ?accepted, fun s i hs => ?notInit, fun s i hs hi => ?badIndex, fun _ _ => rfl⟩
  case accepted => rw [exec_setPhaseOut hs hi, perform_setPhaseOutBody, selectOf_eq_decide hi]
  case notInit => exact exec_of_checkOf_some (checkRequest_before_init (by decide) (by decide) hs i _)
  case badIndex => exact exec_of_checkOf_some (checkRequest_badIndex rfl hs hi _)

end Sys2Proof.Machine
end

section
/-! The accessors (46_accessors.md R97 to R102): what each answers, and that an accessor or a reserved code only answers. -/

namespace Sys2Proof.Machine

/-! ### The register an index names -/

theorem freq_bankOf (s : State) (i : BitVec 2) : s.freq (bankOf i) = if i = 0#2 then s.freq0 else s.freq1 := by
  rw [bankOf, apply_ite s.freq]
  rfl

theorem phase_bankOf (s : State) (i : BitVec 2) : s.phase (bankOf i) = if i = 0#2 then s.phase0 else s.phase1 := by
  rw [bankOf, apply_ite s.phase]
  rfl

/-! ### Each accessor's answer -/

/-- An instruction whose check passes and whose one line is its answer gives that answer and changes nothing else. -/
theorem exec_of_passBody_respond {i : Instr} {s : State} {st : Status} {d : Data} (hc : checkOf i s = none)
    (hb : passBody i s = [.respond st d]) : exec i s = .next (answered st d s) := by
  rw [exec_of_checkOf_none hc, hb]
  rfl

/-- Settles O36: past the check each accessor's one line answers its cache; before INIT the check turns all five away. -/
theorem accessorsAnswerCachedState : Obligations.AccessorsAnswerCachedState := by
  refine ⟨fun s i hs hi => ?accepted, fun s i hs => ?notInit, fun _ _ => ⟨rfl, rfl, rfl, rfl, rfl⟩⟩
  case accepted =>
    have hc : ∀ op, 0x0#4 < op → op < 0xD#4 → indexed op = false → checkRequest op 0#2 0#64 s = none :=
      fun _ hlo hhi hx => checkRequest_not_indexed hlo hhi hx hs _ _
    rw [← freq_bankOf, ← phase_bankOf]
    exact ⟨exec_getFreq hs hi, exec_getPhase hs hi,
      exec_of_passBody_respond (hc 0xA#4 (by decide) (by decide) rfl) rfl,
      exec_of_passBody_respond (hc 0xB#4 (by decide) (by decide) rfl) rfl,
      exec_of_passBody_respond (hc 0xC#4 (by decide) (by decide) rfl) rfl⟩
  case notInit =>
    have hc : ∀ op, 0x1#4 < op → op < 0xD#4 → ∀ k, checkRequest op k 0#64 s = some .notInit :=
      fun _ hlo hhi k => checkRequest_before_init hlo hhi hs k _
    exact ⟨exec_of_checkOf_some (hc 0x8#4 (by decide) (by decide) i), exec_of_checkOf_some (hc 0x9#4 (by decide) (by decide) i),
      exec_of_checkOf_some (hc 0xA#4 (by decide) (by decide) _), exec_of_checkOf_some (hc 0xB#4 (by decide) (by decide) _),
      exec_of_checkOf_some (hc 0xC#4 (by decide) (by decide) _)⟩

/-! ### Nothing but an answer -/

/-- An instruction whose one line is its answer changes the response port at most, whatever its check says (R102, R106). -/
theorem exec_answers_of_passBody_respond {i : Instr} {s : State} {st : Status} {d : Data}
    (hb : passBody i s = [.respond st d]) : ∃ st' d', exec i s = .next (answered st' d' s) := by
  cases hc : checkOf i s with
  | some st' => exact ⟨st', 0#64, exec_of_checkOf_some hc⟩
  | none => exact ⟨st, d, exec_of_passBody_respond hc hb⟩

/-- Settles O44: an accessor's one line is its answer, and a reserved code is always turned away. -/
theorem accessorsChangeOnlyTheResponse : Obligations.AccessorsChangeOnlyTheResponse := by
  intro i s t hi ht
  have hanswer : ∃ st d, exec i s = .next (answered st d s) := by
    rcases hi with ⟨k, rfl | rfl⟩ | rfl | rfl | rfl | hreserved
    case inr.inr.inr.inr =>
      obtain ⟨h0, hD, hE, hF⟩ := reservedCodesAnswerIllegalOp s
      rcases hreserved with rfl | rfl | rfl | rfl
      exacts [⟨_, _, h0⟩, ⟨_, _, hD⟩, ⟨_, _, hE⟩, ⟨_, _, hF⟩]
    all_goals exact exec_answers_of_passBody_respond rfl
  obtain ⟨st, d, he⟩ := hanswer
  obtain rfl := Host.Outcome.next.inj (he.symm.trans ht)
  rfl

end Sys2Proof.Machine
end

section
/-! Rejections and answers (60_exceptions.md R104 to R110): the acceptance check's causes in their order, what a request that is
turned away leaves, and the answer of one that passes. -/

namespace Sys2Proof.Machine

/-! ### The causes of a rejection -/

theorem reserved_iff (op : BitVec 4) : op = 0x0#4 ∨ 0xD#4 ≤ op ↔ op.toNat = 0 ∨ 13 ≤ op.toNat := by
  bv_omega

theorem indexed_iff (op : BitVec 4) : indexed op = true ↔ 4 ≤ op.toNat ∧ op.toNat ≤ 9 := by
  revert op
  decide

theorem isFinite_eq_false_iff (d : Data) : isFinite d = false ↔ d.extractLsb' 52 11 = 0x7FF#11 :=
  bne_eq_false_iff_eq

/-- The check as R104 states it, with codes and indices as numbers. -/
theorem checkRequest_eq (op : BitVec 4) (idx : BitVec 2) (d : Data) (s : State) :
    checkRequest op idx d s =
      if op.toNat = 0 ∨ 13 ≤ op.toNat then some .illegalOp
      else if op.toNat ≠ 1 ∧ s.init = false then some .notInit
      else if 4 ≤ op.toNat ∧ op.toNat ≤ 9 ∧ 1 < idx.toNat then some .badIndex
      else if op.toNat = 4 ∧ d.extractLsb' 52 11 = 0x7FF#11 then some .badValue
      else none := by
  have hop : ∀ n : BitVec 4, op = n ↔ op.toNat = n.toNat := fun n => BitVec.toNat_inj.symm
  have hidx : 1#2 < idx ↔ 1 < idx.toNat := BitVec.lt_def
  simp only [checkRequest, reserved_iff, indexed_iff, isFinite_eq_false_iff, ne_eq, hop 0x1#4, hop 0x4#4, hidx, and_assoc]
  rfl

/-- A request whose check reports a status answers it and changes nothing else (R106). -/
theorem exec_of_checkRequest_some {r : Request} {s : State} {st : Status}
    (h : checkRequest r.op r.idx r.data s = some st) : exec (decodeRequest r) s = .next (answered st 0#64 s) :=
  exec_of_checkOf_some ((checkOf_decodeRequest r s).trans h)

/-- A check that reports the first of four causes reports each exactly when it applies and none before it does. -/
theorem firstCause_iff {c : Option Status} {illegal early index infinite : Prop} [Decidable illegal] [Decidable early]
    [Decidable index] [Decidable infinite]
    (h : c = if illegal then some .illegalOp else if early then some .notInit else if index then some .badIndex
      else if infinite then some .badValue else none) :
    (c = some .illegalOp ↔ illegal) ∧ (c = some .notInit ↔ ¬ illegal ∧ early) ∧
    (c = some .badIndex ↔ ¬ illegal ∧ ¬ early ∧ index) ∧
    (c = some .badValue ↔ ¬ illegal ∧ ¬ early ∧ ¬ index ∧ infinite) ∧
    (c = none ↔ ¬ illegal ∧ ¬ early ∧ ¬ index ∧ ¬ infinite) := by
  rw [h]
  split_ifs with h₁ h₂ h₃ h₄
  · simp [h₁]
  · simp [h₁, h₂]
  · simp [h₁, h₂, h₃]
  · simp [h₁, h₂, h₃, h₄]
  · simp [h₁, h₂, h₃, h₄]

/-- Settles O11: the check reports the first of its four causes, and what it reports is answered. -/
theorem checkReportsFirstCause : Obligations.CheckReportsFirstCause := by
  intro op idx d s
  obtain ⟨hillegal, hearly, hindex, hinfinite, hnone⟩ := firstCause_iff (checkRequest_eq op idx d s)
  exact ⟨hillegal, hearly, hindex, hinfinite, hnone, fun _ => exec_of_checkRequest_some (r := ⟨op, idx, d⟩)⟩

/-- Settles O12: decoding keeps what the check looks at, and the rejection is one answer. -/
theorem rejectedRequestChangesNothing : Obligations.RejectedRequestChangesNothing :=
  fun _ _ _ => exec_of_checkRequest_some

/-- Settles O13: before INIT the first cause of a legal code other than INIT's is NOT_INIT. -/
theorem requestsBeforeInitAreRejected : Obligations.RequestsBeforeInitAreRejected := fun r _ hs hlo hhi =>
  exec_of_checkRequest_some (checkRequest_before_init (by bv_omega) (by bv_omega) hs r.idx r.data)

/-! ### The answer of a request that passes its check -/

theorem exec_of_checkRequest_none {r : Request} {s : State} (h : checkRequest r.op r.idx r.data s = none) :
    exec (decodeRequest r) s = .next (perform (passBody (decodeRequest r) s) s) :=
  exec_of_checkOf_none ((checkOf_decodeRequest r s).trans h)

/-- The last line of a request that passes its check is an answer, with status OK (R52). -/
theorem passBody_ends_ok {i : Instr} {s : State} (hr : isRequest i = true) (hc : checkOf i s = none) :
    ∃ q d, passBody i s = q ++ [.respond .ok d] := by
  have last : ∀ {d}, (passBody i s).getLast? = some (.respond .ok d) → ∃ q d, passBody i s = q ++ [.respond .ok d] :=
    fun h => (List.getLast?_eq_some_iff.mp h).imp fun _ hq => ⟨_, hq⟩
  cases i with
  | setMode d => exact last (d := 0#64) (by simp [passBody])
  | reserved0 | reservedD | reservedE | reservedF => cases hc
  | cmd | resetw | freqLo0 | freqHi0 | freqLo1 | freqHi1 | phase0 | phase1 => cases hr
  | _ => exact last rfl

/-- Settles O16: the last of the request's own lines answers OK. -/
theorem checkedRequestAnswersOk : Obligations.CheckedRequestAnswersOk := by
  intro r s h
  obtain ⟨q, d, hq⟩ := passBody_ends_ok (isRequest_decodeRequest r) ((checkOf_decodeRequest r s).trans h)
  refine ⟨_, d, exec_of_checkRequest_none h, ?_⟩
  rw [hq, perform_append]
  rfl

/-! ### How many frames -/

/-- Lines append one frame for each of them that frames a word (R62). -/
theorem length_newFrames_perform (q : List Micro) (s : State) :
    (newFrames s (perform q s)).length = q.countP Micro.frames := by
  induction q generalizing s with
  | nil => simp
  | cons op q ih =>
    rw [newFrames_perform_cons, List.length_append, ih, List.countP_cons, Nat.add_comm]
    congr 1
    cases op with
    | emit | emitCmd => simp [applyMicro, newFrames_emitFrame, Micro.frames]
    | _ => rw [newFrames_applyMicro_of_not_frames rfl]; rfl

/-- How many words an instruction frames once its check has passed (R129's table). -/
def frameCount : Instr → Nat
  | .init => 12
  | .setFreq _ _ => 3
  | .getFreq _ | .getPhase _ | .getFreqOut | .getPhaseOut | .getMode => 0
  | .reserved0 | .reservedD | .reservedE | .reservedF => 0
  | _ => 1

theorem countP_frames_modeBits (m : BitVec 8) (s : State) : (modeBits m s).countP Micro.frames = 0 := by
  refine List.countP_eq_zero.mpr fun op hop => ?_
  rcases mem_modeBits m s op hop with ⟨f, -, b, rfl⟩ | rfl <;> exact nofun

theorem countP_frames_passBody (i : Instr) (s : State) : (passBody i s).countP Micro.frames = frameCount i := by
  cases i with
  | setMode d => rw [passBody, List.countP_append, countP_frames_modeBits]; rfl
  | _ => rfl

/-- The counts by operation code (R129); code 0 passes no check. -/
theorem frameCount_decodeRequest {r : Request} (h : r.op.toNat ≠ 0) :
    frameCount (decodeRequest r) =
      if r.op.toNat = 1 then 12 else if r.op.toNat = 4 then 3 else if 8 ≤ r.op.toNat then 0 else 1 := by
  obtain ⟨⟨⟨n, hn⟩⟩, idx, d⟩ := r
  have hpos : 0 < n := Nat.pos_of_ne_zero h
  interval_cases n <;> rfl

/-- Settles O39: the frames are counted by the request's own lines. -/
theorem frameCountPerOperation : Obligations.FrameCountPerOperation := by
  intro r s t hc ht
  obtain rfl := Host.Outcome.next.inj ((exec_of_checkRequest_none hc).symm.trans ht)
  obtain ⟨-, -, -, -, hpass, -⟩ := checkReportsFirstCause r.op r.idx r.data s
  obtain ⟨hlegal, -⟩ := hpass.mp hc
  rw [length_newFrames_perform, countP_frames_passBody, frameCount_decodeRequest fun h => hlegal (.inl h)]

/-! ### Answers without a frame, at cycle level -/

/-- A request whose one line is its answer is answered in the cycle that begins at the accepting edge (R110, log 11). -/
theorem clockEdge_of_plan_respond {p : Pins} {s : State} {st : Status} {d : Data} (hr : p.rst = false)
    (hv : p.reqValid = true) (hs : s.seq = .idle) (hplan : plan (decodeRequest p.req) s = [.respond st d]) :
    clockEdge p s = { answered st d s with seq := .busy (some .responding) [] } := by
  rw [clockEdge_accept hr hv hs, accept, plan_setResp, hplan]
  rfl

/-- An accessor's one line is its answer (R97 to R101). -/
theorem passBody_accessor {r : Request} (s : State) (hlo : 8 ≤ r.op.toNat) (hhi : r.op.toNat ≤ 12) :
    ∃ d, passBody (decodeRequest r) s = [.respond .ok d] := by
  obtain ⟨⟨⟨n, hn⟩⟩, idx, d⟩ := r
  replace hlo : 8 ≤ n := hlo
  replace hhi : n ≤ 12 := hhi
  interval_cases n <;> exact ⟨_, rfl⟩

/-- An accessor has one line, its answer or the rejection (R102). -/
theorem plan_accessor {r : Request} (s : State) (hlo : 8 ≤ r.op.toNat) (hhi : r.op.toNat ≤ 12) :
    ∃ st d, plan (decodeRequest r) s = [.respond st d] := by
  cases hc : checkOf (decodeRequest r) s with
  | some st => exact ⟨st, 0#64, plan_of_checkOf_some hc⟩
  | none =>
    obtain ⟨d, hd⟩ := passBody_accessor s hlo hhi
    exact ⟨.ok, d, (plan_of_checkOf_none hc).trans hd⟩

/-- Settles O37: such a request has one line, its answer, which begins at the accepting edge and ends at the next. -/
theorem shortRequestsAnswerInNextCycle : Obligations.ShortRequestsAnswerInNextCycle := by
  refine ⟨fun p s st hr hv hs hc => ?rejected, fun p s hr hv hs hlo hhi => ?accessor, fun p s hr hs => ?ended⟩
  case rejected =>
    exact clockEdge_of_plan_respond hr hv hs (plan_of_checkOf_some ((checkOf_decodeRequest p.req s).trans hc))
  case accessor =>
    obtain ⟨st, d, hplan⟩ := plan_accessor s hlo hhi
    refine ⟨st, d, ?_, clockEdge_of_plan_respond hr hv hs hplan⟩
    rw [exec_eq_plan, hplan]
    rfl
  case ended => rw [clockEdge_busy hr hs, nextPhase, advance]

end Sys2Proof.Machine
end

section
/-! Hazards and time (70_reset_and_hazards.md R121 to R129; 60_exceptions.md R114, R126): what no step changes, a transport that
stays silent, the least length of a frame, and the end of whatever is in progress. -/

namespace Sys2Proof.Machine

/-! ### What no step changes -/

theorem finishPhase_cfg (ph : Phase) (s : State) : (finishPhase ph s).cfg = s.cfg := by
  cases ph <;> rfl

/-- Completing an event appends its frame, if it is one. -/
theorem finishPhase_trace (ph : Phase) (s : State) : ∃ ev, (finishPhase ph s).trace = s.trace ++ ev := by
  cases ph with
  | setup w | hi w | lo w | hold w => exact ⟨[.frame w], rfl⟩
  | _ => exact ⟨[], (List.append_nil _).symm⟩

/-- Settles O5: one lemma for each thing a step can do. -/
theorem stepKeepsParametersAndTrace : Obligations.StepKeepsParametersAndTrace := by
  intro s t hst
  have quiet : ∃ ev, s.trace = s.trace ++ ev := ⟨[], (List.append_nil _).symm⟩
  rcases step_cases hst with ⟨p, rest, -, rfl⟩ | ⟨r, rest, -, -, ht⟩ | ⟨-, -, rfl⟩ | ⟨ph, q, -, rfl⟩ | ⟨-, rfl⟩ |
    ⟨op, q, -, -, rfl⟩ | ⟨op, q, w, -, -, rfl⟩
  · exact ⟨clockEdge_cfg p { s with inputs := rest }, clockEdge_trace p { s with inputs := rest }⟩
  · rw [exec_next ht]
    exact ⟨perform_cfg _ { s with inputs := rest, resp := none }, perform_trace _ { s with inputs := rest, resp := none }⟩
  · exact ⟨rfl, quiet⟩
  · exact ⟨finishPhase_cfg ph s, finishPhase_trace ph s⟩
  · exact ⟨rfl, quiet⟩
  · exact ⟨applyMicro_cfg op { s with seq := .busy none q }, applyMicro_trace op { s with seq := .busy none q }⟩
  · exact ⟨rfl, [.frame w], rfl⟩

/-! ### A silent transport -/

/-- Settles O59: a byte that is not answered is held. -/
theorem silentTransportStalls : Obligations.SilentTransportStalls := fun _ _ w _ _ hps =>
  ⟨fun hs => clockEdges_unanswered (.hi w) hs hps fun _ => rfl, fun hs => clockEdges_unanswered (.lo w) hs hps fun _ => rfl⟩

/-! ### The least length of a frame -/

/-- A frame of `w`, with the lines `q` after it, or its gap, is in progress at `ph` with the lines `q'` still to perform: from
the hold on, a mirror write placed inside it has been taken (90_conflicts.md C4). -/
inductive InFrame (w : Word) (q : List Micro) : Phase → List Micro → Prop
  | setup (n : Nat) : InFrame w q (.setup w n) q
  | hi (first : Bool) : InFrame w q (.hi w first) q
  | lo (first : Bool) : InFrame w q (.lo w first) q
  | hold (n : Nat) {q' : List Micro} : (q' = q ∨ ∃ f b, q = .holdSetBit f b :: q') → InFrame w q (.hold w n) q'
  | gap (n : Nat) {q' : List Micro} : (q' = q ∨ ∃ f b, q = .holdSetBit f b :: q') → InFrame w q (.gap n) q'

theorem InFrame.lines {w : Word} {q q' : List Micro} {ph : Phase} (h : InFrame w q ph q') :
    q' = q ∨ ∃ f b, q = .holdSetBit f b :: q' := by
  cases h with
  | hold _ hq | gap _ hq => exact hq
  | _ => exact .inl rfl

theorem InFrame.frameWord {w : Word} {q q' : List Micro} {ph : Phase} (h : InFrame w q ph q') :
    ph.frameWord = some w ∨ ∃ n, ph = .gap n := by
  cases h with
  | gap n => exact .inr ⟨n, rfl⟩
  | _ => exact .inl rfl

/-- The least number of cycles from `ph` to the end of its frame's gap, each byte answered in its first cycle (R129). -/
def leastCycles (c : Config) : Phase → Nat
  | .setup _ n => (c.nSu - n) + 2 + c.nH + c.nGap
  | .hi _ _ => 2 + c.nH + c.nGap
  | .lo _ _ => 1 + c.nH + c.nGap
  | .hold _ n => (c.nH - n) + c.nGap
  | .gap n => c.nGap - n
  | _ => 0

/-- An edge before the frame's least end stays in the frame and comes at most one cycle nearer to that end. -/
theorem InFrame.after_clockEdge {p : Pins} {s : State} {w : Word} {q q' : List Micro} {ph : Phase} (h : InFrame w q ph q')
    (hr : p.rst = false) (hs : s.seq = .busy (some ph) q') (hleft : 1 < leastCycles s.cfg ph) :
    ∃ ph' q'', (clockEdge p s).seq = .busy (some ph') q'' ∧ InFrame w q ph' q'' ∧
      leastCycles s.cfg ph ≤ leastCycles s.cfg ph' + 1 := by
  rw [clockEdge_busy hr hs]
  cases h with
  | setup n =>
    rw [nextPhase]
    split_ifs with hn
    · exact ⟨_, _, rfl, .hi true, by simp only [leastCycles]; omega⟩
    · exact ⟨_, _, rfl, .setup (n + 1), by simp only [leastCycles]; omega⟩
  | hi first =>
    rw [nextPhase]
    split_ifs
    · exact ⟨_, _, rfl, .lo true, by simp only [leastCycles]; omega⟩
    · exact ⟨_, _, rfl, .hi false, Nat.le_succ _⟩
  | lo first =>
    rw [nextPhase]
    split_ifs
    · have hcycles : leastCycles s.cfg (.lo w first) ≤ leastCycles s.cfg (.hold w 0) + 1 := by
        simp only [leastCycles]; omega
      rcases beginHold_cases w q s with ⟨f, b, rest, hq, e⟩ | ⟨-, e⟩ <;> rw [e]
      · exact ⟨_, _, rfl, .hold 0 (.inr ⟨f, b, hq⟩), hcycles⟩
      · exact ⟨_, _, rfl, .hold 0 (.inl rfl), hcycles⟩
    · exact ⟨_, _, rfl, .lo false, Nat.le_succ _⟩
  | hold n hq =>
    rw [nextPhase]
    split_ifs with hn
    · exact ⟨_, _, rfl, .gap 0 hq, by simp only [leastCycles]; omega⟩
    · exact ⟨_, _, rfl, .hold (n + 1) hq, by simp only [leastCycles]; omega⟩
  | gap n hq =>
    have hn : ¬ s.cfg.nGap ≤ n + 1 := by simp only [leastCycles] at hleft; omega
    rw [nextPhase, if_neg hn]
    exact ⟨_, _, rfl, .gap (n + 1) hq, by simp only [leastCycles]; omega⟩

/-- For fewer edges than a frame still takes at least, it stays in progress. -/
theorem InFrame.after_clockEdges {ps : List Pins} {s : State} {w : Word} {q q' : List Micro} {ph : Phase} (h : InFrame w q ph q')
    (hr : ∀ p ∈ ps, p.rst = false) (hs : s.seq = .busy (some ph) q') (hleft : ps.length < leastCycles s.cfg ph) :
    ∃ ph' q'', (clockEdges ps s).seq = .busy (some ph') q'' ∧ InFrame w q ph' q'' := by
  induction ps generalizing s ph q' with
  | nil => exact ⟨ph, q', hs, h⟩
  | cons p ps ih =>
    obtain ⟨hp, hps⟩ := List.forall_mem_cons.mp hr
    rw [List.length_cons] at hleft
    obtain ⟨ph', q'', hs', h', hle⟩ := h.after_clockEdge hp hs (by omega)
    exact ih h' hps hs' (by rw [clockEdge_cfg]; omega)

/-- Settles O57: from F_SETUP(0) the frame takes at least its setup, two byte cycles, its hold and its gap. -/
theorem noFrameIsShorter : Obligations.NoFrameIsShorter := by
  intro ps s w q _ hr hs hL
  obtain ⟨ph, q', hseq, h⟩ := (InFrame.setup 0).after_clockEdges hr hs hL
  exact ⟨ph, q', hseq, h.lines, h.frameWord⟩

/-! ### What is in progress ends -/

/-- A line that is no state write begins an event. -/
theorem advance_cons_of_not_isWrite {op : Micro} (h : op.isWrite = false) (q : List Micro) (s : State) :
    ∃ ph, (advance (op :: q) s).seq = .busy (some ph) q := by
  cases op with
  | selEnable | waitInit | emitCmd | emit | respond => exact ⟨_, rfl⟩
  | _ => cases h

section
variable {edges : Nat → Pins} {s : State} (hr : ∀ n, (edges n).rst = false)
include hr

/-- While the block is busy the edges change nothing of what it stands for (R8). -/
theorem settled_runEdges {n : Nat} (hbusy : ∀ m < n, (runEdges edges s m).seq ≠ .idle) :
    settled (runEdges edges s n) = settled s := by
  induction n with
  | zero => rfl
  | succ n ih =>
    rw [runEdges, settled_clockEdge_busy (hr n) (hbusy n n.lt_succ_self)]
    exact ih fun m hm => hbusy m (hm.trans n.lt_succ_self)

variable (hfair : AnswersEveryByte edges s)
include hfair

/-- The event in progress ends, and the next one of the lines begins (R110, R114). -/
theorem exists_runEdges_eq_advance {ph : Phase} {q : List Micro} {a : Nat}
    (hs : (runEdges edges s a).seq = .busy (some ph) q) : ∃ b u, runEdges edges s b = advance q u := by
  have h : InPhase edges s (runEdges edges s a) ph q a := by rw [InPhase, ← hs]
  have ended : ∀ {x tr u}, BusyUntil edges s x (LastGap edges s x tr (advance q u)) a →
      ∃ b u, runEdges edges s b = advance q u := fun ⟨b, _, hb, _⟩ => ⟨b + 1, _, hb.next⟩
  cases ph with
  | selEnable | responding => exact ⟨a + 1, _, h.next hr⟩
  | wait k =>
    obtain ⟨b, -, hb, -⟩ := busyUntil_waited hr h
    exact ⟨b, _, hb⟩
  | setup w k => exact ended (busyUntil_frameEnds_of_setup hr hfair h)
  | hi w first => exact ended (busyUntil_frameEnds_of_hi hr hfair h)
  | lo w first => exact ended (busyUntil_frameEnds_of_lo hr hfair h)
  | hold w k => exact ended (busyUntil_frameEnds_of_hold hr h)
  | gap k => exact ended (busyUntil_lastGap_of_gap hr h)

/-- Lines once begun are performed to the last, and the block is IDLE (R26). -/
theorem exists_idle_of_advance {u : State} {q : List Micro} {a : Nat} (h : runEdges edges s a = advance q u) :
    ∃ n, (runEdges edges s n).seq = .idle := by
  induction q generalizing u a with
  | nil => exact ⟨a, by rw [h]; rfl⟩
  | cons op q ih =>
    cases hop : op.isWrite with
    | true => exact ih (h.trans (advance_cons_of_isWrite hop q u))
    | false =>
      obtain ⟨ph, hph⟩ := advance_cons_of_not_isWrite hop q u
      obtain ⟨b, v, hb⟩ := exists_runEdges_eq_advance hr hfair (h ▸ hph)
      exact ih hb

/-- Whatever is in progress, the block is IDLE in some later cycle (R110, R123). -/
theorem exists_idle : ∃ n, (runEdges edges s n).seq = .idle := by
  match hs : s.seq with
  | .idle => exact ⟨0, hs⟩
  | .busy none q => exact exists_idle_of_advance hr hfair (a := 1) (clockEdge_between (hr 0) hs)
  | .busy (some ph) q =>
    obtain ⟨b, u, hb⟩ := exists_runEdges_eq_advance hr hfair (a := 0) hs
    exact exists_idle_of_advance hr hfair hb

end

/-- Settles O49: up to the first IDLE cycle no edge changes what the block stands for, and an IDLE block stands for itself. -/
theorem acceptedRequestCompletes : Obligations.AcceptedRequestCompletes := by
  intro edges s hr hfair _
  have hidle := exists_idle hr hfair
  have hbusy : ∀ m < Nat.find hidle, (runEdges edges s m).seq ≠ .idle := fun _ => Nat.find_min hidle
  refine ⟨Nat.find hidle, ?_, Nat.find_spec hidle, hbusy⟩
  rw [← settled_runEdges hr hbusy, settled_idle (Nat.find_spec hidle)]

end Sys2Proof.Machine
end
